-- ==== Sys2Proof/Word.lean ====
section
/-!
DEFINITION. The values of the P3 core.

A word, the content of a register, of a data memory location or of FAULT_INFO, is a natural number: "All values are
natural numbers (unsigned)" (R13). Its width is the parameter `WORD_BITS` of the instance (R10, R32, R45), so a word's
bound `v < 2 ^ WORD_BITS` is an invariant of the state (`State.Inv`), not part of a type. DEDUCED, safe: log 3. (The bound
of FAULT_INFO is wider where an address is: log 7.) A byte is part of a program image only.
-/

namespace Sys2Proof

/-- One byte of a program image or of an instruction record (R70, R106). -/
abbrev Byte := BitVec 8

end Sys2Proof
end

