-- ==== Sys2Proof/Config.lean ====
section
/-!
DEFINITION. What an instance of the core fixes at construction (R10, R11, R31), the fixed sizes of R10, and the one
value the spec leaves open, as a free value.
-/

namespace Sys2Proof

/-- `NREGS` (R10): the number of registers. -/
abbrev Config.nregs : Nat := 32

/-- `MAX_RECORD_BYTES` (R10): the length of the longest instruction record. -/
abbrev Config.maxRecordBytes : Nat := 6

/-- The parameters an instance is constructed with; each is fixed for its life (R10, R11). They are no state (R31);
`State` carries them unchanged, so that one type of states covers every instance. DESIGN CHOICE, safe: log 1. -/
structure Params where
  /-- `MEM_SIZE`: how many words data memory has. -/
  memSize : Nat
  /-- `WORD_BITS`: how many bits a register or a memory word has. -/
  wordBits : Nat
  /-- `PROG_CAP`: how many instructions the program store can hold; `none` is the unbounded store R44 allows. -/
  progCap : Option Nat
deriving DecidableEq, Repr

/-- The defaults of R10 for `MEM_SIZE` and `WORD_BITS`. `PROG_CAP` is OPEN in the spec (D18) and taken as unbounded, as
R44 allows. DESIGN CHOICE, unsafe for a claim that rests on it: log 2. -/
def Params.initial : Params := { memSize := 65536, wordBits := 32, progCap := none }

/-- The one limit R10 puts on the parameters: `WORD_BITS ≥ 24`. -/
abbrev Params.Legal (p : Params) : Prop := 24 ≤ p.wordBits

/-- FREE VALUE (log 8): what the decoder port `dec_b` drives on an unknown opcode, which R118 does not say. Argument:
the valid input bytes, so that `dec_n` 6 and 7 mean the same and the bytes past `dec_n` do not matter. -/
opaque Config.decBOnUnknown : List Byte → BitVec 5

end Sys2Proof
end

