-- ==== Sys2Proof/Syntax.lean ====
section
/-!
DEFINITION. The instruction as data (R100): one constructor per row of spec/opcode_table.json, with the source's
operands in the source's order.
-/

namespace Sys2Proof

/-- An instruction (R100). Operands are natural numbers, as the host gives them (R228): which of them are in range is
`Instr.wellFormed` (R101), checked when an instruction is built. -/
inductive Instr where
  /-- LoadConst (R171): `reg` receives `const`. -/
  | loadConst (reg const : Nat)
  /-- ReadMem (R176): `dstReg` receives the memory word that `srcReg` addresses. -/
  | readMem (srcReg dstReg : Nat)
  /-- WriteMem (R182): the memory word that `addrReg` addresses receives `srcReg`. -/
  | writeMem (srcReg addrReg : Nat)
  /-- ShiftRight (R201): `reg` is shifted right by the memory word at `memAddr`. -/
  | shiftRight (reg memAddr : Nat)
deriving DecidableEq, Repr

end Sys2Proof
end

