-- ==== Sys2Proof/WellFormed.lean ====
section
/-!
DEFINITION. Which instructions are well-formed (R101), and which operand is the first out of range (R270 item 3).
-/

namespace Sys2Proof

/-- The operands of an instruction in the source's order, each with the bound it must lie below (R100, R101). -/
def Instr.operandBounds : Instr → List (Nat × Nat)
  | .loadConst reg const => [(reg, 32), (const, 2 ^ 24)]
  | .readMem srcReg dstReg => [(srcReg, 32), (dstReg, 32)]
  | .writeMem srcReg addrReg => [(srcReg, 32), (addrReg, 32)]
  | .shiftRight reg memAddr => [(reg, 32), (memAddr, 2 ^ 30)]

/-- Every operand lies in its range (R101). -/
def Instr.wellFormed (i : Instr) : Bool :=
  i.operandBounds.all fun p => decide (p.1 < p.2)

/-- The position, counted from 0 in the source's order, of the first operand out of range (R270 item 3; log 10). -/
def Instr.badOperand (i : Instr) : Option Nat :=
  i.operandBounds.findIdx? fun p => decide (p.2 ≤ p.1)

end Sys2Proof
end

