-- ==== Sys2Proof/Decode.lean ====
section
/-!
DEFINITION. The instruction codec: bit fields and little-endian bytes (R14, R16), the opcode descriptor table (R103),
the decoder (R114 to R119) and the encoder (R105, R106, R110).
-/

namespace Sys2Proof

/-- `v[hi:lo]` (R14): bits `hi` down to `lo`, inclusive, as a number. -/
def bits (v hi lo : Nat) : Nat := (v >>> lo) % 2 ^ (hi + 1 - lo)

/-- `LE(b)` (R16): the number whose little-endian bytes are `b`. -/
def leValue : List Byte → Nat
  | [] => 0
  | b :: rest => b.toNat + 2 ^ 8 * leValue rest

/-- `LEbytes_n(v)` (R16): the lowest `n` bytes of `v`, least significant first. -/
def leBytes : Nat → Nat → List Byte
  | 0, _ => []
  | n + 1, v => BitVec.ofNat 8 v :: leBytes n (v >>> 8)

/-- The four opcodes (R2). -/
inductive Opcode where
  | loadConst | readMem | writeMem | shiftRight
deriving DecidableEq, Repr

/-- One row of the opcode descriptor table (R103). -/
structure Descriptor where
  /-- The 7-bit code. -/
  code : Nat
  /-- How many bytes a record has. -/
  recordBytes : Nat
  /-- How many bits field A has. -/
  aBits : Nat
deriving DecidableEq, Repr

/-- The opcode descriptor table (R103), "the single table that the encoder, the decoder and the loader all consult". -/
def Opcode.descriptor : Opcode → Descriptor
  | .loadConst => { code := 44, recordBytes := 5, aBits := 24 }
  | .readMem => { code := 120, recordBytes := 3, aBits := 5 }
  | .writeMem => { code := 34, recordBytes := 3, aBits := 5 }
  | .shiftRight => { code := 37, recordBytes := 6, aBits := 30 }

/-- The 7-bit code of an opcode (R103, R136). -/
def Opcode.code (op : Opcode) : Nat := op.descriptor.code

/-- The record width of an opcode in bytes (R103, R121). -/
def Opcode.recordBytes (op : Opcode) : Nat := op.descriptor.recordBytes

/-- The width of field A of an opcode in bits (R103). -/
def Opcode.aBits (op : Opcode) : Nat := op.descriptor.aBits

/-- The opcodes in the order of the descriptor table. -/
def Opcode.all : List Opcode := [.loadConst, .readMem, .writeMem, .shiftRight]

/-- The opcode of a 7-bit code; `none` for the 124 illegal codes (R133). -/
def Opcode.ofCode (c : Nat) : Option Opcode := Opcode.all.find? fun op => op.code == c

/-- The instruction of an opcode with fields B and A (R102). For all four the source's first operand is B and the second
is A (R184). -/
def Opcode.instr (op : Opcode) (b a : Nat) : Instr :=
  match op with
  | .loadConst => .loadConst b a
  | .readMem => .readMem b a
  | .writeMem => .writeMem b a
  | .shiftRight => .shiftRight b a

/-- The opcode of an instruction. -/
def Instr.opcode : Instr → Opcode
  | .loadConst _ _ => .loadConst
  | .readMem _ _ => .readMem
  | .writeMem _ _ => .writeMem
  | .shiftRight _ _ => .shiftRight

/-- Field B of an instruction (R102). -/
def Instr.fieldB : Instr → Nat
  | .loadConst reg _ => reg
  | .readMem srcReg _ => srcReg
  | .writeMem srcReg _ => srcReg
  | .shiftRight reg _ => reg

/-- Field A of an instruction (R102). -/
def Instr.fieldA : Instr → Nat
  | .loadConst _ const => const
  | .readMem _ dstReg => dstReg
  | .writeMem _ addrReg => addrReg
  | .shiftRight _ memAddr => memAddr

/-- Why a byte string has no instruction (R115). -/
inductive DecodeError where
  /-- Cause 1, EMPTY: there is no first byte. -/
  | empty
  /-- Cause 2, UNKNOWN_OPCODE: the low 7 bits of the first byte are no assigned code. -/
  | unknownOpcode (code : Nat)
deriving DecidableEq, Repr

/-- The opcode code in the first byte of a record: `byte0 & 0x7F` (R109). -/
def codeOf (byte0 : Byte) : Nat := (byte0 &&& 0x7F#8).toNat

/-- `b` cut to its first `w` bytes, or padded with zeros at its high end to `w` bytes (R116). -/
def fitRecord (w : Nat) (b : List Byte) : List Byte := b.take w ++ List.replicate (w - b.length) 0

/-- The instruction of opcode `op` that the record at the start of `b` holds: B is bits 11:7, A the A-width bits from
bit 12, every other bit ignored (R114, R117). -/
def decodeFields (op : Opcode) (b : List Byte) : Instr :=
  let v := leValue (fitRecord op.recordBytes b)
  op.instr (bits v 11 7) (bits v (12 + op.aBits - 1) 12)

/-- The decoder (R114): the instruction and how many bytes its record has, or a DecodeError (R115). -/
def decode (b : List Byte) : Except DecodeError (Instr × Nat) :=
  match b with
  | [] => .error .empty
  | byte0 :: _ =>
    match Opcode.ofCode (codeOf byte0) with
    | none => .error (.unknownOpcode (codeOf byte0))
    | some op => .ok (decodeFields op b, op.recordBytes)

/-- The instruction the decoder reads from `nbits` bits `w`, bit 0 the least significant bit of the first byte, followed
by zeros up to the longest record; `none` where it refuses. -/
def decodeTableWord (nbits w : Nat) : Option Instr :=
  match decode (leBytes Config.maxRecordBytes (w % 2 ^ nbits)) with
  | .ok (i, _) => some i
  | .error _ => none

/-- The packed value of an instruction: `(A << 12) | (B << 7) | C` (R105). -/
def packed (i : Instr) : Nat := (i.fieldA <<< 12) ||| (i.fieldB <<< 7) ||| i.opcode.code

/-- The encoder (R110): the record of a well-formed instruction. -/
def encode (i : Instr) : List Byte := leBytes i.opcode.recordBytes (packed i)

end Sys2Proof
end

