-- ==== Sys2Proof/Machine/State.lean ====
section
/-!
DEFINITION. The state of one core instance (R30), what a step can stop with, and the state after construction (R53,
R290).
-/

namespace Sys2Proof.Machine

/-- The causes an error can have (R261), in the order of their codes 0 to 7. -/
inductive Cause where
  /-- 0: no error. -/
  | none
  /-- 1: DECODE of an empty byte string. -/
  | decodeEmpty
  /-- 2: an unassigned opcode code in DECODE or LOAD. -/
  | unknownOpcode
  /-- 3: a memory address at or above `MEM_SIZE`. -/
  | memOutOfBounds
  /-- 4: a register index of 32 or more. -/
  | regOutOfBounds
  /-- 5: the construction of an instruction that is not well-formed. -/
  | invalidInstruction
  /-- 6: a program longer than `PROG_CAP`. -/
  | loadCapacity
  /-- 7: a host value of `2 ^ WORD_BITS` or more. -/
  | valueRange
deriving DecidableEq, Repr

/-- Data memory (R45): the words that are not 0, as (address, word) pairs in one canonical form (`Memory.wf`). An
unlisted address reads as 0, the reset contents R46 gives. Memory is word addressed (R71), so a pair holds a word and
not a byte: DEDUCED, safe, log 4. -/
abbrev Memory := List (Nat × Nat)

/-- The canonical form of a memory: addresses strictly rising, and no entry that equals what an unlisted address reads
as. -/
abbrev Memory.wf (m : Memory) : Prop := m.Pairwise (fun p q => p.1 < q.1) ∧ ∀ p ∈ m, p.2 ≠ 0

/-- The state of one core instance, exactly that of R30, with the instance's parameters (R31). -/
structure State where
  /-- The parameters the instance was constructed with; nothing writes them (R11; log 1). -/
  params : Params
  /-- The register file `x[0..31]` (R32). None is hardwired (R33). -/
  regs : Vector Nat 32
  /-- The data memory `M` (R45). -/
  mem : Memory
  /-- The program counter: an index into the program store (R37). -/
  pc : Nat
  /-- The program store `P`, decoded instructions (R41); its length is `PLEN`. -/
  program : List Instr
  /-- `STATUS.FAULTED` (R48), which is also the control state READY or FAULTED (R50). -/
  faulted : Bool
  /-- `STATUS.CAUSE` (R48). -/
  cause : Cause
  /-- `FAULT_INFO` (R49; its width: log 7). -/
  faultInfo : Nat
deriving DecidableEq, Repr

/-- The reasons a step of this model can stop the machine with: there are none. An execution error is a next state in
which FAULTED, CAUSE and FAULT_INFO are written (R265; log 6), and a step of a halted or faulted core is a next state in
which nothing changed (R151, R157). So no step raises a fault, which is safe: nothing is left out by one. -/
inductive Fault where
deriving DecidableEq, Repr

/-- The reasons a step of this model can be refused with. -/
inductive Refusal where
  /-- Raised by exec's arm of an instruction that has no meaning yet; every instruction has one, so no arm raises it.
  Safe: it stops where the hardware goes on. -/
  | notModelled (mnemonic : String)
deriving DecidableEq, Repr

/-- A newly constructed instance with parameters `p` (R53, R290). -/
def State.construct (p : Params) : State where
  params := p
  regs := Vector.replicate 32 0
  mem := []
  pc := 0
  program := []
  faulted := false
  cause := .none
  faultInfo := 0

/-- The machine at power-on, which R290 says is construction, with the default parameters: every value is the spec's
(R53), but for the unbounded program store (log 2; log 14). -/
def State.reset : State := State.construct Params.initial

end Sys2Proof.Machine
end

