-- ==== Sys2Proof/Machine/Ops.lean ====
section
/-!
DEFINITION. The named operations over registers, memory and the program store; completing a step; taking an execution
fault (R265), and RESET, the only way out of it (R268, R291).
-/

namespace Sys2Proof.Machine

open Host (Outcome)

/-- `zext_N(v)` (R15): `v` as an N-bit unsigned number. The spec applies it only to values below `2 ^ N`, where it is `v`
itself; what it is above them is log 13. -/
def zext (n v : Nat) : Nat := v % 2 ^ n

/-- The value of `M[a]`: the listed word, or 0 (R46, R84). Every use is behind a bounds check (log 15). -/
def Memory.read : Memory → Nat → Nat
  | [], _ => 0
  | (b, v) :: rest, a => if b = a then v else Memory.read rest a

/-- The memory without the entry of address `a`. -/
def Memory.drop (m : Memory) (a : Nat) : Memory := m.filter fun p => p.1 != a

/-- The entry `(a, v)` put in its place among rising addresses. -/
def Memory.put : Memory → Nat → Nat → Memory
  | [], a, v => [(a, v)]
  | (b, w) :: rest, a, v => if a < b then (a, v) :: (b, w) :: rest else (b, w) :: Memory.put rest a v

/-- `M[a] <- v`, keeping the canonical form: writing what an unlisted address reads as removes the entry. -/
def Memory.write (m : Memory) (a : Nat) (v : Nat) : Memory :=
  if v = 0 then m.drop a else (m.drop a).put a v

/-- `x[i]`; only indices below 32 exist, and every use of an instruction or a command is
behind the bounds check of `State.checkReg` (log 15). -/
def State.reg (s : State) (i : Nat) : Nat := s.regs[i]?.getD 0

/-- `x[i] <- v`. -/
def State.setReg (s : State) (i : Nat) (v : Nat) : State := { s with regs := s.regs.setIfInBounds i v }

/-- `M[a] <- v` as a change of the state. -/
def State.setMem (s : State) (a : Nat) (v : Nat) : State := { s with mem := s.mem.write a v }

/-- `PLEN` (R41). -/
def State.plen (s : State) : Nat := s.program.length

/-- The core is halted when `pc ≥ PLEN` (R151); this is `STATUS.HALTED` (R48). -/
def State.halted (s : State) : Bool := decide (s.plen ≤ s.pc)

/-- Fetch: `P[pc]`, if the core is not halted (R150). -/
def State.fetch (s : State) : Option Instr := s.program[s.pc]?

/-- OutOfBoundsError (R260): what the execute phase of a step, or a host access, can raise. -/
inductive OutOfBounds where
  /-- Cause 3: a memory address at or above `MEM_SIZE` (R72, R73). -/
  | mem (addr : Nat)
  /-- Cause 4: a register index of 32 or more (R170). -/
  | reg (idx : Nat)
deriving DecidableEq, Repr

/-- The cause code of an OutOfBoundsError (R261). -/
def OutOfBounds.cause : OutOfBounds → Cause
  | .mem _ => .memOutOfBounds
  | .reg _ => .regOutOfBounds

/-- The information an OutOfBoundsError records: the value that failed the check (R49, R261). -/
def OutOfBounds.info : OutOfBounds → Nat
  | .mem addr => addr
  | .reg idx => idx

/-- The bounds check of data memory (R72, R73): the address is compared whole (R75). -/
def State.checkMem (s : State) (a : Nat) : Except OutOfBounds Unit :=
  if s.params.memSize ≤ a then .error (.mem a) else .ok ()

/-- The bounds check of the register file (R170). -/
def State.checkReg (_s : State) (i : Nat) : Except OutOfBounds Unit :=
  if 32 ≤ i then .error (.reg i) else .ok ()

/-- `MemRead(a, 1)` (R72). -/
def State.memRead (s : State) (a : Nat) : Except OutOfBounds Nat := do
  s.checkMem a
  return s.mem.read a

/-- The single write of a step (R150): one register or one memory word. -/
inductive Write where
  | reg (i : Nat) (v : Nat)
  | mem (a : Nat) (v : Nat)
deriving DecidableEq, Repr

/-- `MemWrite(a, 1, v)` (R73): the check, then the write of the step. -/
def State.memWrite (s : State) (a : Nat) (v : Nat) : Except OutOfBounds Write := do
  s.checkMem a
  return .mem a v

/-- The commit of a step (R150, R154): its single write and `pc <- pc + 1` together. -/
def State.commit (s : State) : Write → State
  | .reg i v => { s.setReg i v with pc := s.pc + 1 }
  | .mem a v => { s.setMem a v with pc := s.pc + 1 }

/-- Taking an execution fault (R265): nothing is written but FAULTED, CAUSE and FAULT_INFO, and `pc` still names the
faulting instruction. FAULT_INFO takes the whole information, whatever `WORD_BITS` is (R12, R201; its width: log 7). -/
def State.enterFault (s : State) (e : OutOfBounds) : State :=
  { s with faulted := true, cause := e.cause, faultInfo := e.info }

/-- The end of a step whose execute phase gave `r` (R150): the commit, or the fault. -/
def State.retire (s : State) (r : Except OutOfBounds Write) : Outcome State Fault Refusal :=
  match r with
  | .ok w => .next (s.commit w)
  | .error e => .next (s.enterFault e)

/-- RESET (R291): everything as after construction, but the program store and the parameters kept. -/
def State.resetCore (s : State) : State :=
  { s with
    regs := Vector.replicate 32 0, mem := [], pc := 0
    faulted := false, cause := .none, faultInfo := 0 }

end Sys2Proof.Machine
end

