-- ==== Sys2Proof/Machine/Operands.lean ====
section
/-!
DEFINITION. The operand forms of the instructions: register operands behind their bounds check (R170), and the two
addressing modes (R74).
-/

namespace Sys2Proof.Machine

/-- A source register operand: its index is checked, then the register is read (R170). -/
def State.regOperand (s : State) (i : Nat) : Except OutOfBounds Nat := do
  s.checkReg i
  return s.reg i

/-- The effective address of the register indirect mode, from the value the register operand read: the whole value,
without an offset, a scale or a truncation (R74, R75). -/
def indirectAddress (value : Nat) : Nat := value

/-- The effective address of the direct mode: the address field itself (R74). -/
def directAddress (field : Nat) : Nat := field

end Sys2Proof.Machine
end

