-- ==== Sys2Proof/Machine/DataMovement.lean ====
section
/-!
DEFINITION. LoadConst, ReadMem and WriteMem (spec/41_data_movement.md). Each has its execute phase, which reads every
operand and answers the step's single write or an OutOfBoundsError (R150, R154), and its meaning, which completes the
step with it.
-/

namespace Sys2Proof.Machine

open Host (Outcome)

/-- Exec_LoadConst (R171). -/
def loadConstPhase (reg const : Nat) (s : State) : Except OutOfBounds Write := do
  s.checkReg reg
  return .reg reg (zext s.params.wordBits const)

/-- LoadConst (R171): `x[reg] <- const`. It raises nothing for a well-formed instruction (R262). -/
def execLoadConst (reg const : Nat) (s : State) : Outcome State Fault Refusal :=
  s.retire (loadConstPhase reg const s)

/-- Exec_ReadMem (R176): the register checks in operand order, then the memory check (R270 item 1; log 12). -/
def readMemPhase (srcReg dstReg : Nat) (s : State) : Except OutOfBounds Write := do
  let a ← s.regOperand srcReg
  s.checkReg dstReg
  let v ← s.memRead (indirectAddress a)
  return .reg dstReg v

/-- ReadMem (R176): `x[dstReg] <- M[x[srcReg]]`, or the fault of cause 3 when the address is out of bounds. -/
def execReadMem (srcReg dstReg : Nat) (s : State) : Outcome State Fault Refusal :=
  s.retire (readMemPhase srcReg dstReg s)

/-- Exec_WriteMem (R182): data first, address second (R184), then the memory check. -/
def writeMemPhase (srcReg addrReg : Nat) (s : State) : Except OutOfBounds Write := do
  let v ← s.regOperand srcReg
  let a ← s.regOperand addrReg
  s.memWrite (indirectAddress a) v

/-- WriteMem (R182): `M[x[addrReg]] <- x[srcReg]`, or the fault of cause 3 when the address is out of bounds. -/
def execWriteMem (srcReg addrReg : Nat) (s : State) : Outcome State Fault Refusal :=
  s.retire (writeMemPhase srcReg addrReg s)

end Sys2Proof.Machine
end

