-- ==== Sys2Proof/Machine/Shift.lean ====
section
/-!
DEFINITION. ShiftRight (spec/42_shift.md).
-/

namespace Sys2Proof.Machine

open Host (Outcome)

/-- `LSR(v, n)` (R200): the logical right shift, `floor(v / 2 ^ n)`, with the amount taken whole (R202). R14 writes it
`v >> n`. -/
def lsr (v n : Nat) : Nat := v >>> n

/-- Exec_ShiftRight (R201): the register check, then the memory check (R270 item 1; log 12). -/
def shiftRightPhase (reg memAddr : Nat) (s : State) : Except OutOfBounds Write := do
  let v ← s.regOperand reg
  let n ← s.memRead (directAddress memAddr)
  return .reg reg (lsr v n)

/-- ShiftRight (R201): `x[reg] <- LSR(x[reg], M[memAddr])`, or the fault of cause 3 when the address is out of bounds. -/
def execShiftRight (reg memAddr : Nat) (s : State) : Outcome State Fault Refusal :=
  s.retire (shiftRightPhase reg memAddr s)

end Sys2Proof.Machine
end

