-- ==== Sys2Proof/Machine/Dispatch.lean ====
section
/-!
DEFINITION. Dispatch (R152): one arm per instruction, each a direct call of that instruction's meaning.
-/

namespace Sys2Proof.Machine

open Host (Outcome)

/-- The execute and commit phases of a step that has fetched `i` (R150, R152). -/
def exec (i : Instr) (s : State) : Host.Outcome State Fault Refusal :=
  match i with
  | .loadConst reg const => Sys2Proof.Machine.execLoadConst reg const s
  | .readMem srcReg dstReg => Sys2Proof.Machine.execReadMem srcReg dstReg s
  | .writeMem srcReg addrReg => Sys2Proof.Machine.execWriteMem srcReg addrReg s
  | .shiftRight reg memAddr => Sys2Proof.Machine.execShiftRight reg memAddr s

end Sys2Proof.Machine
end

