-- ==== Sys2Proof/Machine/Sequencer.lean ====
section
/-!
DEFINITION. The sequencer (spec/40_sequencing.md): one step, its response, and RUN.
-/

namespace Sys2Proof.Machine

open Host (Outcome)

/-- One step (R150): nothing changes in a faulted (R157) or a halted core (R151); otherwise the instruction at `pc` is
executed. -/
def stepOutcome (s : State) : Outcome State Fault Refusal :=
  if s.faulted then .next s
  else
    match s.fetch with
    | none => .next s
    | some i => exec i s

/-- What a step returns (R150, R225). -/
inductive StepResult where
  /-- The instruction completed; the source's `true`. -/
  | executed
  /-- The core was halted; the source's `false`. -/
  | halted
  /-- The step faulted, or the core was already faulted. -/
  | fault (cause : Cause) (info : Nat)
deriving DecidableEq, Repr

/-- The execute phase of an instruction: its single write, or the error it raises (R150). -/
def executePhase (i : Instr) (s : State) : Except OutOfBounds Write :=
  match i with
  | .loadConst reg const => loadConstPhase reg const s
  | .readMem srcReg dstReg => readMemPhase srcReg dstReg s
  | .writeMem srcReg addrReg => writeMemPhase srcReg addrReg s
  | .shiftRight reg memAddr => shiftRightPhase reg memAddr s

/-- What the step from `s` returns (R150): the recorded fault in a faulted core, HALTED in a halted one, the fault's
cause and information where the execute phase raises, and else EXECUTED. -/
def stepResult (s : State) : StepResult :=
  if s.faulted then .fault s.cause s.faultInfo
  else
    match s.fetch with
    | none => .halted
    | some i =>
      match executePhase i s with
      | .ok _ => .executed
      | .error e => .fault e.cause e.info

/-- The state a step leaves. A step of this model always answers a next state; the other outcomes would leave `s`. -/
def stepState (s : State) : State :=
  match stepOutcome s with
  | .next t => t
  | .fault _ => s
  | .refused _ => s

/-- Why a RUN stopped (R158). -/
inductive StopReason where
  /-- A step returned HALTED. -/
  | halted
  /-- `maxSteps` steps were attempted. -/
  | limit
  /-- A step returned FAULT with this cause and information. -/
  | fault (cause : Cause) (info : Nat)
deriving DecidableEq, Repr

/-- RUN (R158): at most `maxSteps` steps, until one does not return EXECUTED; the state it leaves, why it stopped, and
how many instructions it executed. -/
def runSteps : Nat → State → State × StopReason × Nat
  | 0, s => (s, .limit, 0)
  | k + 1, s =>
    match stepResult s with
    | .halted => (stepState s, .halted, 0)
    | .fault c v => (stepState s, .fault c v, 0)
    | .executed =>
      let (t, why, n) := runSteps k (stepState s)
      (t, why, n + 1)

/-- `s` with an instruction loaded so that the next step runs it: the program store holds it alone, as a LOAD of its
record would leave it (R125), `pc` is at the entry point (R294), and no fault is pending (log 5). Where the decoder
refuses the bits, nothing changes, as for a failing LOAD (R126). -/
def placeInstr (s : State) (i : Option Instr) : State :=
  match i with
  | none => s
  | some i => { s with program := [i], pc := 0, faulted := false, cause := .none, faultInfo := 0 }

end Sys2Proof.Machine
end

