-- ==== Sys2Proof/Machine/Step.lean ====
section
/-!
DEFINITION. The step of the machine: what the STEP command does to the state (R150, R225). The other host commands are
in Machine/Commands.lean.
-/

namespace Sys2Proof.Machine

open Host (Outcome)

/-- One step (R150). -/
def step (s : State) : Outcome State Fault Refusal := stepOutcome s

/-- `s` with the instruction of `nbits` bits `w` placed where the next step fetches (log 5). -/
def State.withFetchWord (s : State) (nbits w : Nat) : State := placeInstr s (decodeTableWord nbits w)

end Sys2Proof.Machine
end

