-- ==== Sys2Proof/Machine/Flags.lean ====
section
/-!
DEFINITION. The STATUS register (R48). The block has no flags or condition codes (R47): no instruction computes one.
-/

namespace Sys2Proof.Machine

/-- The number of a cause (R261), which fits the three bits of `STATUS.CAUSE`. -/
def Cause.code : Cause → BitVec 3
  | .none => 0
  | .decodeEmpty => 1
  | .unknownOpcode => 2
  | .memOutOfBounds => 3
  | .regOutOfBounds => 4
  | .invalidInstruction => 5
  | .loadCapacity => 6
  | .valueRange => 7

/-- `STATUS` as software reads it (R48): bits 31:5 zero, HALTED in bit 4 computed at the read, CAUSE in bits 3:1,
FAULTED in bit 0 (log 16). -/
def State.statusWord (s : State) : BitVec 32 :=
  0#27 ++ BitVec.ofBool s.halted ++ s.cause.code ++ BitVec.ofBool s.faulted

end Sys2Proof.Machine
end

