-- ==== Sys2Proof/Machine/CodecPorts.lean ====
section
/-!
DEFINITION. The encoder and the decoder as combinational units (R112, R118).
-/

namespace Sys2Proof.Machine

/-- The outputs of the encoder unit (R112). -/
structure EncoderOut where
  /-- `enc_bytes[47:0]`: record byte `i` in bits `8i+7 : 8i`. -/
  bytes : BitVec 48
  /-- `enc_len[2:0]`. -/
  len : BitVec 3
  /-- `enc_err[2:0]`: 0, or 5 for InvalidInstructionError. -/
  err : BitVec 3
deriving DecidableEq, Repr

/-- The encoder unit (R112) on `enc_code`, `enc_b` and `enc_a`. -/
def encoderPorts (encCode : BitVec 7) (encB : BitVec 8) (encA : BitVec 32) : EncoderOut :=
  match Opcode.ofCode encCode.toNat with
  | none => { bytes := 0, len := 0, err := Cause.invalidInstruction.code }
  | some op =>
    let i := op.instr encB.toNat encA.toNat
    if i.wellFormed then
      { bytes := BitVec.ofNat 48 (leValue (encode i)), len := BitVec.ofNat 3 op.recordBytes, err := 0 }
    else { bytes := 0, len := 0, err := Cause.invalidInstruction.code }

/-- The outputs of the decoder unit (R118). -/
structure DecoderOut where
  /-- `dec_err[2:0]`: 0, 1 for EMPTY, 2 for UNKNOWN_OPCODE. -/
  err : BitVec 3
  /-- `dec_code[6:0]`. -/
  code : BitVec 7
  /-- `dec_b[4:0]`. -/
  b : BitVec 5
  /-- `dec_a[29:0]`. -/
  a : BitVec 30
  /-- `dec_len[2:0]`. -/
  len : BitVec 3
deriving DecidableEq, Repr

/-- The valid input bytes of the decoder unit: the first `dec_n`, where 6 and 7 both mean all six (R118). -/
def validBytes (decBytes : BitVec 48) (decN : BitVec 3) : List Byte :=
  leBytes (min decN.toNat 6) decBytes.toNat

/-- `dec_b` on the valid bytes of an unknown opcode, which R118 does not give: a free value (log 8). Only vector D2 fixes
it, at 0, for the single byte `00`. -/
def decBOnUnknown (valid : List Byte) : BitVec 5 := if valid = [0] then 0 else Config.decBOnUnknown valid

/-- The decoder unit (R118) on `dec_bytes` and `dec_n`. -/
def decoderPorts (decBytes : BitVec 48) (decN : BitVec 3) : DecoderOut :=
  let valid := validBytes decBytes decN
  match Sys2Proof.decode valid with
  | .error .empty => { err := Cause.decodeEmpty.code, code := 0, b := 0, a := 0, len := 0 }
  | .error (.unknownOpcode c) =>
    { err := Cause.unknownOpcode.code, code := BitVec.ofNat 7 c, b := decBOnUnknown valid, a := 0, len := 0 }
  | .ok (i, consumed) =>
    { err := 0, code := BitVec.ofNat 7 i.opcode.code, b := BitVec.ofNat 5 i.fieldB, a := BitVec.ofNat 30 i.fieldA,
      len := BitVec.ofNat 3 consumed }

end Sys2Proof.Machine
end

