-- ==== Sys2Proof/Machine/Loader.lean ====
section
/-!
DEFINITION. The program loader (R120 to R128): it cuts a program image into records and decodes them.
-/

namespace Sys2Proof.Machine

/-- Why a LOAD fails (R224). -/
inductive LoadError where
  /-- DecodeError, cause 2: the record that starts at byte `offset` has the unassigned code `code` (R124, R126). -/
  | unknownOpcode (code offset : Nat)
  /-- LoadCapacityError, cause 6: the program would have `count` instructions, more than `PROG_CAP` (R128; log 9). -/
  | capacity (count : Nat)
deriving DecidableEq, Repr

/-- `n` instructions are more than the capacity; an unbounded store holds any number (R44, R128). -/
def exceeds (cap : Option Nat) (n : Nat) : Bool :=
  match cap with
  | none => false
  | some c => decide (c < n)

/-- The loader's scan (R120). `skip` counts the bytes of the current record that are still to be passed over, `off` is
the offset of the first byte of the list, and `count` how many records have been decoded. A record that the image ends
inside is padded by the decoder (R123). The capacity is checked as each record is counted (R270 item 2; log 9). -/
def loadScan (cap : Option Nat) : List Byte → (skip off count : Nat) → Except LoadError (List Instr)
  | [], _, _, _ => .ok []
  | _ :: rest, skip + 1, off, count => loadScan cap rest skip (off + 1) count
  | byte0 :: rest, 0, off, count =>
    match Opcode.ofCode (codeOf byte0) with
    | none => .error (.unknownOpcode (codeOf byte0) off)
    | some op =>
      if exceeds cap (count + 1) then .error (.capacity (count + 1))
      else
        match loadScan cap rest (op.recordBytes - 1) (off + 1) (count + 1) with
        | .ok prog => .ok (decodeFields op (byte0 :: rest) :: prog)
        | .error e => .error e

/-- The loader (R120) for a program store of capacity `cap`. -/
def load (cap : Option Nat) (bin : List Byte) : Except LoadError (List Instr) := loadScan cap bin 0 0 0

end Sys2Proof.Machine
end

