-- ==== Sys2Proof/Machine/Commands.lean ====
section
/-!
DEFINITION. The host command interface (spec/45_host_commands.md): the twelve commands, their responses, and the
construction of instructions (R101) and the memory read-out (R90) they use.
-/

namespace Sys2Proof.Machine

/-- How the host names an opcode to ENCODE (R228). -/
inductive OpcodeRef where
  /-- By its mnemonic, in the spelling of R100 (log 11). -/
  | mnemonic (name : String)
  /-- By its 7-bit code (R103). -/
  | code (c : Nat)
deriving DecidableEq, Repr

/-- The mnemonic of an opcode (R100). -/
def mnemonicOf : Opcode → String
  | .loadConst => "LoadConst"
  | .readMem => "ReadMem"
  | .writeMem => "WriteMem"
  | .shiftRight => "ShiftRight"

/-- The opcode a reference names; `none` is an unknown opcode (R101). -/
def OpcodeRef.resolve : OpcodeRef → Option Opcode
  | .mnemonic name => Opcode.all.find? fun op => mnemonicOf op == name
  | .code c => Opcode.ofCode c

/-- Which check refused the construction of an instruction, and the operand's position (R261 cause 5; log 10). -/
inductive InvalidReason where
  /-- No opcode has this mnemonic or code. -/
  | unknownOpcode
  /-- The number of operands is not the opcode's. -/
  | operandCount
  /-- The operand at this position, counted from 0 in the source's order, is out of range. -/
  | operandRange (position : Nat)
deriving DecidableEq, Repr

/-- Building an instruction (R101), the checks in the order of R270 item 3: the opcode, the operand count, the operands'
ranges in operand order. -/
def buildInstr (ref : OpcodeRef) (operands : List Nat) : Except InvalidReason Instr :=
  match ref.resolve with
  | none => .error .unknownOpcode
  | some op =>
    match operands with
    | [first, second] =>
      match (op.instr first second).badOperand with
      | none => .ok (op.instr first second)
      | some position => .error (.operandRange position)
    | _ => .error .operandCount

/-- DumpRange (R90): one pair per address from `first` to the smaller of `last` (inclusive) and `MEM_SIZE - 1`,
ascending; empty when there is none. -/
def State.dumpRange (s : State) (first last : Nat) : List (Nat × Nat) :=
  (List.range' first (min (last + 1) s.params.memSize - first)).map fun a => (a, s.mem.read a)

/-- The error response of a command, with its information (R221, R261). -/
inductive CommandError where
  /-- Causes 1 and 2, of DECODE. -/
  | decode (e : DecodeError)
  /-- Causes 2 and 6, of LOAD. -/
  | load (e : LoadError)
  /-- Causes 3 and 4, of REG_READ, REG_WRITE and MEM_WRITE. -/
  | outOfBounds (e : OutOfBounds)
  /-- Cause 5, of ENCODE. -/
  | invalidInstruction (why : InvalidReason)
  /-- Cause 7, of REG_WRITE and MEM_WRITE, with the value. -/
  | valueRange (v : Nat)
deriving DecidableEq, Repr

/-- The cause code of an error response (R261). -/
def CommandError.cause : CommandError → Cause
  | .decode .empty => .decodeEmpty
  | .decode (.unknownOpcode _) => .unknownOpcode
  | .load (.unknownOpcode _ _) => .unknownOpcode
  | .load (.capacity _) => .loadCapacity
  | .outOfBounds e => e.cause
  | .invalidInstruction _ => .invalidInstruction
  | .valueRange _ => .valueRange

/-- The kinds of error the host can tell apart (R260). -/
inductive ErrorKind where
  | decodeError | outOfBoundsError | invalidInstructionError | loadCapacityError | valueRangeError
deriving DecidableEq, Repr

/-- The kind of a cause (R261); cause 0 is no error. -/
def Cause.kind : Cause → Option ErrorKind
  | .none => Option.none
  | .decodeEmpty => some .decodeError
  | .unknownOpcode => some .decodeError
  | .memOutOfBounds => some .outOfBoundsError
  | .regOutOfBounds => some .outOfBoundsError
  | .invalidInstruction => some .invalidInstructionError
  | .loadCapacity => some .loadCapacityError
  | .valueRange => some .valueRangeError

/-- The commands of the command port (R220). -/
inductive Command where
  | reset
  | load (bin : List Byte)
  | step
  | run (maxSteps : Nat)
  /-- `last` is inclusive. -/
  | dump (first last : Nat)
  | encode (ref : OpcodeRef) (operands : List Nat)
  | decode (b : List Byte)
  | statusRead
  | pcRead
  | regRead (i : Nat)
  | regWrite (i v : Nat)
  | memWrite (a v : Nat)
deriving DecidableEq, Repr

/-- The responses of the command port (R220, R221). -/
inductive Response where
  /-- OK without a payload: RESET, REG_WRITE, MEM_WRITE. -/
  | ok
  /-- LOAD: the new `PLEN`. -/
  | loaded (plen : Nat)
  /-- STEP. -/
  | stepped (r : StepResult)
  /-- RUN: why it stopped and how many instructions it executed. -/
  | ran (why : StopReason) (count : Nat)
  /-- DUMP. -/
  | dumped (pairs : List (Nat × Nat))
  /-- ENCODE: the record. -/
  | encoded (record : List Byte)
  /-- DECODE: the instruction and the bytes consumed. -/
  | decoded (i : Instr) (consumed : Nat)
  /-- STATUS_READ: `STATUS` and `FAULT_INFO`. -/
  | status (word : BitVec 32) (info : Nat)
  /-- PC_READ. -/
  | pcIs (pc plen : Nat)
  /-- REG_READ. -/
  | value (v : Nat)
  /-- An error, with its cause and information. -/
  | error (e : CommandError)
deriving DecidableEq, Repr

/-- LOAD (R224): a success replaces the program store and nothing else (R125), a failure changes nothing (R126). -/
def loadCommand (bin : List Byte) (s : State) : State × Response :=
  match load s.params.progCap bin with
  | .ok prog => ({ s with program := prog }, .loaded prog.length)
  | .error e => (s, .error (.load e))

/-- RUN (R226). -/
def runCommand (maxSteps : Nat) (s : State) : State × Response :=
  let (t, why, count) := runSteps maxSteps s
  (t, .ran why count)

/-- ENCODE (R228). -/
def encodeResponse (ref : OpcodeRef) (operands : List Nat) : Response :=
  match buildInstr ref operands with
  | .ok i => .encoded (encode i)
  | .error why => .error (.invalidInstruction why)

/-- DECODE (R229). -/
def decodeResponse (b : List Byte) : Response :=
  match Sys2Proof.decode b with
  | .ok (i, consumed) => .decoded i consumed
  | .error e => .error (.decode e)

/-- REG_READ (R236). -/
def regReadResponse (i : Nat) (s : State) : Response :=
  match s.checkReg i with
  | .ok _ => .value (s.reg i)
  | .error e => .error (.outOfBounds e)

/-- REG_WRITE (R237): the index check, then the value check (R270 item 4). -/
def regWriteCommand (i v : Nat) (s : State) : State × Response :=
  match s.checkReg i with
  | .error e => (s, .error (.outOfBounds e))
  | .ok _ => if 2 ^ s.params.wordBits ≤ v then (s, .error (.valueRange v)) else (s.setReg i v, .ok)

/-- MEM_WRITE (R238): the address check, then the value check (R270 item 4). -/
def memWriteCommand (a v : Nat) (s : State) : State × Response :=
  match s.checkMem a with
  | .error e => (s, .error (.outOfBounds e))
  | .ok _ => if 2 ^ s.params.wordBits ≤ v then (s, .error (.valueRange v)) else (s.setMem a v, .ok)

/-- One command of the host (R220): performed completely, answered with one response. Every command is accepted in both
control states (R222). -/
def command (c : Command) (s : State) : State × Response :=
  match c with
  | .reset => (s.resetCore, .ok)
  | .load bin => loadCommand bin s
  | .step => (stepState s, .stepped (stepResult s))
  | .run maxSteps => runCommand maxSteps s
  | .dump first last => (s, .dumped (s.dumpRange first last))
  | .encode ref operands => (s, encodeResponse ref operands)
  | .decode b => (s, decodeResponse b)
  | .statusRead => (s, .status s.statusWord s.faultInfo)
  | .pcRead => (s, .pcIs s.pc s.plen)
  | .regRead i => (s, regReadResponse i s)
  | .regWrite i v => regWriteCommand i v s
  | .memWrite a v => memWriteCommand a v s

/-- A sequence of commands, one after the other (R220): the state they leave and their responses in order. -/
def session : List Command → State → State × List Response
  | [], s => (s, [])
  | c :: rest, s =>
    let (t, r) := command c s
    let (u, rs) := session rest t
    (u, r :: rs)

end Sys2Proof.Machine
end

