-- ==== Sys2Proof/Safety.lean ====
section
/-!
DEFINITION. What a legal state of a core instance is, in the terms the statements use. A run is safe while every state of it
is legal and `faulted` is false.
-/

namespace Sys2Proof.Machine

/-- Every register holds a `WORD_BITS`-bit value (R32). -/
def State.RegsFit (s : State) : Prop := ∀ j, j < 32 → s.reg j < 2 ^ s.params.wordBits

/-- Memory has its canonical form, and lists only existing addresses (R45) and `WORD_BITS`-bit values. -/
def State.MemFits (s : State) : Prop :=
  s.mem.wf ∧ ∀ p ∈ s.mem, p.1 < s.params.memSize ∧ p.2 < 2 ^ s.params.wordBits

/-- The program store holds well-formed instructions only (R41), no more than its capacity (R44). -/
def State.ProgramFits (s : State) : Prop :=
  (∀ i ∈ s.program, i.wellFormed = true) ∧ exceeds s.params.progCap s.plen = false

/-- The status registers agree (R48, R49): without a fault all of them are 0; with one, the cause is the only one a
well-formed instruction can raise (R262), and `FAULT_INFO` holds an address outside memory. `FAULT_INFO` has `WORD_BITS`
bits, or the 30 of a ShiftRight address where these are more (log 7). -/
def State.StatusFits (s : State) : Prop :=
  s.faultInfo < 2 ^ max s.params.wordBits 30 ∧
  (s.faulted = false → s.cause = .none ∧ s.faultInfo = 0) ∧
  (s.faulted = true → s.cause = .memOutOfBounds ∧ s.params.memSize ≤ s.faultInfo)

/-- A legal state of a core instance. -/
def State.Inv (s : State) : Prop :=
  s.params.Legal ∧ s.RegsFit ∧ s.MemFits ∧ s.ProgramFits ∧ s.StatusFits

/-- Every register and memory word is below `2 ^ 24` (R204). -/
def State.Below24 (s : State) : Prop := (∀ j, j < 32 → s.reg j < 2 ^ 24) ∧ ∀ a, s.mem.read a < 2 ^ 24

/-- `b` is exactly one whole record (R121): the decoder reads an instruction from it and consumes all of it. -/
def IsRecordOf (b : List Byte) (i : Instr) : Prop := Sys2Proof.decode b = .ok (i, b.length)

end Sys2Proof.Machine
end

