-- ==== Sys2Proof/Certificates/Slice0/Obligations.lean ====
section
/-!
DEFINITION. The statements about the P3 core, for the provers. "Marked derived" and "marked general knowledge" say that
the spec itself marks the rule as its own inference; such a statement has basis 'derived'.
-/

open Sys2Proof Sys2Proof.Machine

/-! ### The codec -/

/-- Records written out in spec/95_test_vectors.md decode as they say there (tables 2.1 and 2.3): one record of each
opcode, unused bits set, a long and a short input, and the errors. -/
def Obligations.SpecRecordsDecode : Prop :=
  decode [0xAC, 0x50, 0x00, 0x00, 0x00] = .ok (.loadConst 1 5, 5) ∧
  decode [0x78, 0x31, 0x00] = .ok (.readMem 2 3, 3) ∧
  decode [0xA2, 0x21, 0x00] = .ok (.writeMem 3 2, 3) ∧
  decode [0x25, 0x40, 0x1F, 0x00, 0x00, 0x00] = .ok (.shiftRight 0 500, 6) ∧
  decode [0xA5, 0xFF, 0xFF, 0xFF, 0xFF, 0x03] = .ok (.shiftRight 31 1073741823, 6) ∧
  decode [0xAC, 0x50, 0x00, 0x00, 0xF0] = .ok (.loadConst 1 5, 5) ∧
  decode [0xAC, 0x50, 0x00, 0x00, 0x00, 0xFF] = .ok (.loadConst 1 5, 5) ∧
  decode [0x2C, 0x81] = .ok (.loadConst 2 8, 5) ∧
  decode [] = .error .empty ∧
  decode [0xAD] = .error (.unknownOpcode 45) ∧
  decode [0xFF] = .error (.unknownOpcode 127)

/-- R130: decoding the record of a well-formed instruction gives it back, with its record width. -/
def Obligations.DecodeOfEncode : Prop :=
  ∀ i : Instr, i.wellFormed = true → decode (encode i) = .ok (i, i.opcode.recordBytes)

/-- R105: the packed value of a well-formed instruction; the three fields do not overlap, so the packing by OR is a sum,
and the value is below `2 ^ (12 + A width)`. -/
def Obligations.PackedFieldsDoNotOverlap : Prop :=
  ∀ i : Instr, i.wellFormed = true →
    packed i = (i.fieldA <<< 12) ||| (i.fieldB <<< 7) ||| i.opcode.code ∧
    i.opcode.code < 2 ^ 7 ∧ i.fieldB < 2 ^ 5 ∧ i.fieldA < 2 ^ i.opcode.aBits ∧
    packed i = 2 ^ 12 * i.fieldA + 2 ^ 7 * i.fieldB + i.opcode.code ∧
    packed i < 2 ^ (12 + i.opcode.aBits)

/-- The record bytes by field, as R104, R107 and R108 (marked derived) give them for the formats L, R and S. -/
def Obligations.RecordBytesByField : Prop :=
  (∀ reg const, reg < 32 → const < 2 ^ 24 →
    encode (.loadConst reg const) =
      [BitVec.ofNat 8 (44 ||| (bits reg 0 0 <<< 7)), BitVec.ofNat 8 (bits reg 4 1 ||| (bits const 3 0 <<< 4)),
       BitVec.ofNat 8 (bits const 11 4), BitVec.ofNat 8 (bits const 19 12), BitVec.ofNat 8 (bits const 23 20)]) ∧
  (∀ b a, b < 32 → a < 32 →
    encode (.readMem b a) =
      [BitVec.ofNat 8 (120 ||| (bits b 0 0 <<< 7)), BitVec.ofNat 8 (bits b 4 1 ||| (bits a 3 0 <<< 4)),
       BitVec.ofNat 8 (bits a 4 4)]) ∧
  (∀ b a, b < 32 → a < 32 →
    encode (.writeMem b a) =
      [BitVec.ofNat 8 (34 ||| (bits b 0 0 <<< 7)), BitVec.ofNat 8 (bits b 4 1 ||| (bits a 3 0 <<< 4)),
       BitVec.ofNat 8 (bits a 4 4)]) ∧
  (∀ reg memAddr, reg < 32 → memAddr < 2 ^ 30 →
    encode (.shiftRight reg memAddr) =
      [BitVec.ofNat 8 (37 ||| (bits reg 0 0 <<< 7)), BitVec.ofNat 8 (bits reg 4 1 ||| (bits memAddr 3 0 <<< 4)),
       BitVec.ofNat 8 (bits memAddr 11 4), BitVec.ofNat 8 (bits memAddr 19 12), BitVec.ofNat 8 (bits memAddr 27 20),
       BitVec.ofNat 8 (bits memAddr 29 28)])

/-- R111: the record has exactly the opcode's width, whatever the operands are. -/
def Obligations.EncodeHasRecordWidth : Prop :=
  ∀ b a : Nat,
    (encode (.loadConst b a)).length = 5 ∧ (encode (.readMem b a)).length = 3 ∧
    (encode (.writeMem b a)).length = 3 ∧ (encode (.shiftRight b a)).length = 6

/-- R115: the decoder's two errors, with their cause codes, and that they are its only ones: a first byte with one of
the four codes always gives an instruction. -/
def Obligations.DecodeErrorCases : Prop :=
  decode [] = .error .empty ∧ (CommandError.decode .empty).cause.code = 1 ∧
  (∀ c, (CommandError.decode (.unknownOpcode c)).cause.code = 2) ∧
  ∀ (b : Byte) (rest : List Byte),
    (codeOf b ∉ [44, 120, 34, 37] → decode (b :: rest) = .error (.unknownOpcode (codeOf b))) ∧
    (codeOf b ∈ [44, 120, 34, 37] → ∃ i n, decode (b :: rest) = .ok (i, n))

/-- R116: a short input is read as if zeros followed it up to the record width, a long input by its first `w` bytes
alone, and `w` bytes are consumed. -/
def Obligations.DecodePadsAndCuts : Prop :=
  ∀ (op : Opcode) (b : Byte) (rest : List Byte), codeOf b = op.code →
    ((b :: rest).length < op.recordBytes →
      decode (b :: rest) = decode ((b :: rest) ++ List.replicate (op.recordBytes - (b :: rest).length) 0)) ∧
    (op.recordBytes ≤ (b :: rest).length → decode (b :: rest) = decode ((b :: rest).take op.recordBytes)) ∧
    ∃ i, decode (b :: rest) = .ok (i, op.recordBytes)

/-- R117: the fields of a decoded record are bits 11:7 and the A-width bits from bit 12; records that differ only in
unused bits decode to the same instruction; a decoded instruction is well-formed. -/
def Obligations.DecodeMasksFields : Prop :=
  ∀ (op : Opcode) (b : List Byte), b.length = op.recordBytes → leValue b % 2 ^ 7 = op.code →
    ∃ i, decode b = .ok (i, op.recordBytes) ∧ i.opcode = op ∧
      i.fieldB = bits (leValue b) 11 7 ∧ i.fieldA = bits (leValue b) (11 + op.aBits) 12 ∧ i.wellFormed = true ∧
      ∀ b' : List Byte, b'.length = op.recordBytes → leValue b' % 2 ^ (12 + op.aBits) = leValue b % 2 ^ (12 + op.aBits) →
        decode b' = decode b

/-- R131 (marked derived): encoding what a record decodes to gives the record back exactly when its unused bits are 0. -/
def Obligations.EncodeOfDecodeCanonical : Prop :=
  ∀ (op : Opcode) (b : List Byte) (i : Instr) (n : Nat), b.length = op.recordBytes → leValue b % 2 ^ 7 = op.code →
    decode b = .ok (i, n) → (encode i = b ↔ bits (leValue b) (8 * op.recordBytes - 1) (12 + op.aBits) = 0)

/-- R112: the encoder unit's outputs for an accepted and for a refused input. -/
def Obligations.EncoderUnitOutputs : Prop :=
  ∀ (code : BitVec 7) (b : BitVec 8) (a : BitVec 32),
    (∀ op : Opcode, code.toNat = op.code → b.toNat < 32 → a.toNat < 2 ^ op.aBits →
      (encoderPorts code b a).err = 0 ∧ (encoderPorts code b a).len.toNat = op.recordBytes ∧
      leBytes 6 (encoderPorts code b a).bytes.toNat =
        encode (op.instr b.toNat a.toNat) ++ List.replicate (6 - op.recordBytes) 0) ∧
    ((∀ op : Opcode, code.toNat = op.code → 32 ≤ b.toNat ∨ 2 ^ op.aBits ≤ a.toNat) →
      encoderPorts code b a = { bytes := 0, len := 0, err := 5 })

/-- R118: the decoder unit's outputs, where `v` is the input with the bytes at index `dec_n` and above taken as 0. No
output depends on those bytes, and `dec_n` 6 and 7 mean the same. What `dec_b` is on an unknown code R118 does not say,
and the statement says nothing more of it (log 8). -/
def Obligations.DecoderUnitOutputs : Prop :=
  ∀ (bytes : BitVec 48) (n : BitVec 3) (v : Nat), v = bytes.toNat % 2 ^ (8 * min n.toNat 6) →
    (n = 0 → decoderPorts bytes n = { err := 1, code := 0, b := 0, a := 0, len := 0 }) ∧
    (n ≠ 0 → (decoderPorts bytes n).code.toNat = bytes.toNat % 2 ^ 7 ∧
      (∀ op : Opcode, v % 2 ^ 7 = op.code →
        (decoderPorts bytes n).err = 0 ∧ (decoderPorts bytes n).b.toNat = bits v 11 7 ∧
        (decoderPorts bytes n).a.toNat = bits v (11 + op.aBits) 12 ∧
        (decoderPorts bytes n).len.toNat = op.recordBytes) ∧
      ((∀ op : Opcode, v % 2 ^ 7 ≠ op.code) →
        (decoderPorts bytes n).err = 2 ∧ (decoderPorts bytes n).a = 0 ∧ (decoderPorts bytes n).len = 0)) ∧
    (∀ bytes' : BitVec 48, bytes'.toNat % 2 ^ (8 * min n.toNat 6) = v → decoderPorts bytes' n = decoderPorts bytes n) ∧
    decoderPorts bytes 6 = decoderPorts bytes 7

/-! ### The loader -/

/-- R132 (marked derived): loading a concatenation of encodings gives the instructions in order. -/
def Obligations.LoadOfEncodings : Prop :=
  ∀ prog : List Instr, (∀ i ∈ prog, i.wellFormed = true) → load none (prog.flatMap encode) = .ok prog

/-- R123: when the image ends inside a record whose first byte holds a valid code, after any whole records `rs`, the
missing bytes are taken as 0, and the record is decoded and appended as the last one. -/
def Obligations.LoadPadsLastRecord : Prop :=
  ∀ (rs : List (List Byte)) (prog : List Instr) (tail : List Byte) (i : Instr) (n : Nat),
    List.Forall₂ IsRecordOf rs prog → tail ≠ [] → decode (tail ++ List.replicate 6 0) = .ok (i, n) → tail.length < n →
    load none (rs.flatten ++ tail) = .ok (prog ++ [i])

/-- R124: an unrecognised code at a record start, after any whole records `rs`, fails the whole load with DecodeError
cause 2, whatever follows. The LOAD command then answers the code and the byte offset of that record, and changes nothing
(R126, R224), in a bounded program store as long as the records before it do not fill the store (R270 item 2; where they
do: log 9). -/
def Obligations.LoadRejectsUnknownCode : Prop :=
  ∀ (rs : List (List Byte)) (prog : List Instr) (b : Byte) (rest : List Byte),
    List.Forall₂ IsRecordOf rs prog → codeOf b ∉ [44, 120, 34, 37] →
    load none (rs.flatten ++ b :: rest) = .error (.unknownOpcode (codeOf b) rs.flatten.length) ∧
    (CommandError.load (.unknownOpcode (codeOf b) rs.flatten.length)).cause.code = 2 ∧
    ∀ s : State, (∀ cap, s.params.progCap = some cap → prog.length < cap) →
      command (.load (rs.flatten ++ b :: rest)) s =
        (s, .error (.load (.unknownOpcode (codeOf b) rs.flatten.length)))

/-- R125: a LOAD that succeeds replaces the program store, and its length, and changes nothing else. -/
def Obligations.LoadReplacesProgram : Prop :=
  ∀ (s : State) (bin : List Byte) (prog : List Instr), load s.params.progCap bin = .ok prog →
    ∃ t, command (.load bin) s = (t, .loaded prog.length) ∧ t = { s with program := prog } ∧ t.plen = prog.length

/-- R128: a LOAD whose sequence would have more than `PROG_CAP` instructions fails with LoadCapacityError, cause 6, and
changes nothing; one of `PROG_CAP` instructions or fewer succeeds; an unbounded program store never raises the error. -/
def Obligations.LoadBeyondCapacityFails : Prop :=
  (∀ (s : State) (bin : List Byte) (prog : List Instr) (cap : Nat), s.params.progCap = some cap →
    load none bin = .ok prog → cap < prog.length →
    ∃ n, command (.load bin) s = (s, .error (.load (.capacity n))) ∧ (CommandError.load (.capacity n)).cause.code = 6) ∧
  (∀ (s : State) (bin : List Byte) (prog : List Instr) (cap : Nat), s.params.progCap = some cap →
    load none bin = .ok prog → prog.length ≤ cap →
    command (.load bin) s = ({ s with program := prog }, .loaded prog.length)) ∧
  (∀ (s : State) (bin : List Byte) (n : Nat), s.params.progCap = none →
    (command (.load bin) s).2 ≠ .error (.load (.capacity n)))

/-- R129 (marked derived): `L` bytes load to at most `ceil(L / 3)` instructions. -/
def Obligations.LoadLengthBound : Prop :=
  ∀ (cap : Option Nat) (bin : List Byte) (prog : List Instr), load cap bin = .ok prog →
    prog.length ≤ (bin.length + 2) / 3

/-! ### The instructions: results, faults and frames -/

/-- R171: LoadConst's encoding and its effect; it raises nothing, in every state of a legal instance. -/
def Obligations.LoadConstWritesConstant : Prop :=
  encode (.loadConst 1 5) = [0xAC, 0x50, 0x00, 0x00, 0x00] ∧
  ∀ reg const, reg < 32 → const < 2 ^ 24 →
    encode (.loadConst reg const) = leBytes 5 ((const <<< 12) ||| (reg <<< 7) ||| 44) ∧
    ∀ s : State, 24 ≤ s.params.wordBits →
      ∃ t, exec (.loadConst reg const) s = .next t ∧ t.reg reg = const ∧ (∀ j, j ≠ reg → t.reg j = s.reg j) ∧
        t = { s with regs := t.regs, pc := s.pc + 1 }

/-- R176: ReadMem's encoding, its effect where the address is in bounds, and its fault where it is not. -/
def Obligations.ReadMemReadsOrFaults : Prop :=
  encode (.readMem 2 3) = [0x78, 0x31, 0x00] ∧
  ∀ src dst, src < 32 → dst < 32 →
    encode (.readMem src dst) = leBytes 3 ((dst <<< 12) ||| (src <<< 7) ||| 120) ∧
    ∀ s : State,
      (s.reg src < s.params.memSize →
        ∃ t, exec (.readMem src dst) s = .next t ∧ t.reg dst = s.mem.read (s.reg src) ∧
          (∀ j, j ≠ dst → t.reg j = s.reg j) ∧ t = { s with regs := t.regs, pc := s.pc + 1 }) ∧
      (s.params.memSize ≤ s.reg src →
        exec (.readMem src dst) s =
          .next { s with faulted := true, cause := .memOutOfBounds, faultInfo := s.reg src })

/-- R182: WriteMem's encoding, its effect where the address is in bounds, and its fault where it is not. -/
def Obligations.WriteMemWritesOrFaults : Prop :=
  encode (.writeMem 3 2) = [0xA2, 0x21, 0x00] ∧
  ∀ src ad, src < 32 → ad < 32 →
    encode (.writeMem src ad) = leBytes 3 ((ad <<< 12) ||| (src <<< 7) ||| 34) ∧
    ∀ s : State,
      (s.reg ad < s.params.memSize →
        ∃ t, exec (.writeMem src ad) s = .next t ∧ t.mem.read (indirectAddress (s.reg ad)) = s.reg src ∧
          (∀ a, a ≠ indirectAddress (s.reg ad) → t.mem.read a = s.mem.read a) ∧
          t = { s with mem := t.mem, pc := s.pc + 1 }) ∧
      (s.params.memSize ≤ s.reg ad →
        exec (.writeMem src ad) s =
          .next { s with faulted := true, cause := .memOutOfBounds, faultInfo := s.reg ad })

/-- R201: ShiftRight's encoding, its effect where the address is in bounds, and its fault where it is not, with
`FAULT_INFO = m` in every instance. -/
def Obligations.ShiftRightShiftsOrFaults : Prop :=
  encode (.shiftRight 0 500) = [0x25, 0x40, 0x1F, 0x00, 0x00, 0x00] ∧
  ∀ reg m, reg < 32 → m < 2 ^ 30 →
    encode (.shiftRight reg m) = leBytes 6 ((m <<< 12) ||| (reg <<< 7) ||| 37) ∧
    ∀ s : State,
      (m < s.params.memSize →
        ∃ t, exec (.shiftRight reg m) s = .next t ∧ t.reg reg = s.reg reg / 2 ^ s.mem.read m ∧
          (∀ j, j ≠ reg → t.reg j = s.reg j) ∧ t = { s with regs := t.regs, pc := s.pc + 1 }) ∧
      (s.params.memSize ≤ m →
        exec (.shiftRight reg m) s = .next { s with faulted := true, cause := .memOutOfBounds, faultInfo := m })

/-- R202: the shift amount is the whole memory word, not reduced; every amount of `WORD_BITS` or more gives 0. -/
def Obligations.ShiftAmountIsNotMasked : Prop :=
  ∀ (s : State) (reg m : Nat), reg < 32 → m < s.params.memSize →
    ∃ t, exec (.shiftRight reg m) s = .next t ∧ t.reg reg = s.reg reg / 2 ^ s.mem.read m ∧
      (s.reg reg < 2 ^ s.params.wordBits → s.params.wordBits ≤ s.mem.read m → t.reg reg = 0)

/-- R200 (its definition marked general knowledge): the logical right shift by quotient and bit by bit. -/
def Obligations.LogicalShiftLaws : Prop :=
  ∀ v n : Nat, lsr v n = v / 2 ^ n ∧ lsr v 0 = v ∧ lsr v n ≤ v ∧ (∀ k, (lsr v n).testBit k = v.testBit (k + n)) ∧
    ∀ w, v < 2 ^ w → w ≤ n → lsr v n = 0

/-- R177 and R183 (marked derived): operands that name one register. ReadMem replaces the address by the word it pointed
at, and WriteMem stores the address at itself. -/
def Obligations.AliasedOperands : Prop :=
  ∀ (s : State) (r : Nat), r < 32 → s.reg r < s.params.memSize →
    (∃ t, exec (.readMem r r) s = .next t ∧ t.reg r = s.mem.read (s.reg r)) ∧
    (∃ t, exec (.writeMem r r) s = .next t ∧ t.mem.read (s.reg r) = s.reg r ∧ t.reg r = s.reg r)

/-- An instruction checks each register index it uses, in operand order and before the memory address, and raises cause 4
with the first index of 32 or more; for a well-formed instruction the check never fires. R170 gives the check of the
data-movement instructions; the order of the checks, and ShiftRight's, are R270 item 1 as log 12 reads it (DEDUCED):
hence basis 'derived'. -/
def Obligations.RegisterIndexChecked : Prop :=
  (∀ (s : State) (idx k : Nat), 32 ≤ idx → executePhase (.loadConst idx k) s = .error (.reg idx)) ∧
  (∀ (s : State) (idx r : Nat), 32 ≤ idx →
    executePhase (.readMem idx r) s = .error (.reg idx) ∧ executePhase (.writeMem idx r) s = .error (.reg idx) ∧
    (r < 32 →
      executePhase (.readMem r idx) s = .error (.reg idx) ∧ executePhase (.writeMem r idx) s = .error (.reg idx))) ∧
  (∀ (s : State) (idx m : Nat), 32 ≤ idx → executePhase (.shiftRight idx m) s = .error (.reg idx)) ∧
  (∀ idx, (OutOfBounds.reg idx).cause.code = 4 ∧ (OutOfBounds.reg idx).info = idx) ∧
  ∀ (s : State) (i : Instr) (idx : Nat), i.wellFormed = true → executePhase i s ≠ .error (.reg idx)

/-- R262 (marked derived): which instructions fault, and exactly when. -/
def Obligations.FaultsByInstruction : Prop :=
  ∀ s : State,
    (∀ reg k e, Instr.wellFormed (.loadConst reg k) = true → executePhase (.loadConst reg k) s ≠ .error e) ∧
    (∀ src dst e, Instr.wellFormed (.readMem src dst) = true →
      (executePhase (.readMem src dst) s = .error e ↔ s.params.memSize ≤ s.reg src ∧ e = .mem (s.reg src))) ∧
    (∀ src ad e, Instr.wellFormed (.writeMem src ad) = true →
      (executePhase (.writeMem src ad) s = .error e ↔ s.params.memSize ≤ s.reg ad ∧ e = .mem (s.reg ad))) ∧
    (∀ reg m e, Instr.wellFormed (.shiftRight reg m) = true →
      (executePhase (.shiftRight reg m) s = .error e ↔ s.params.memSize ≤ m ∧ e = .mem m))

/-- R265: what a fault does. The step writes FAULTED, CAUSE and `FAULT_INFO` and nothing else, and STEP and RUN report
the cause and the information. -/
def Obligations.FaultEntry : Prop :=
  ∀ (s : State) (i : Instr) (e : OutOfBounds), s.faulted = false → s.program[s.pc]? = some i →
    executePhase i s = .error e →
    ∃ t, t = { s with faulted := true, cause := e.cause, faultInfo := e.info } ∧ step s = .next t ∧
      command .step s = (t, .stepped (.fault e.cause e.info)) ∧
      ∀ k, command (.run (k + 1)) s = (t, .ran (.fault e.cause e.info) 0)

/-- The frame of LoadConst, ReadMem and ShiftRight, whose destination is the register `d`: no other register, no memory
word, and neither the program store nor the parameters change. If the instruction completes the status registers are
unchanged; if it faults every register and `pc` are unchanged. -/
def Obligations.FrameOfRegisterWriters : Prop :=
  ∀ (s t : State) (d : Nat) (i : Instr),
    ((∃ k, i = .loadConst d k) ∨ (∃ src, i = .readMem src d) ∨ ∃ m, i = .shiftRight d m) → exec i s = .next t →
    (∀ j, j ≠ d → t.reg j = s.reg j) ∧ (∀ a, t.mem.read a = s.mem.read a) ∧
    t.program = s.program ∧ t.params = s.params ∧
    ((t.pc = s.pc + 1 ∧ t.faulted = s.faulted ∧ t.cause = s.cause ∧ t.faultInfo = s.faultInfo) ∨
     (t.pc = s.pc ∧ t.regs = s.regs ∧ t.faulted = true))

/-- The frame of WriteMem: no register, no memory word but the one at the effective address, and neither the program
store nor the parameters change. If it completes the status registers are unchanged; if it faults all of memory and `pc`
are unchanged. -/
def Obligations.FrameOfWriteMem : Prop :=
  ∀ (s t : State) (src ad : Nat), exec (.writeMem src ad) s = .next t →
    (∀ j, t.reg j = s.reg j) ∧
    (∀ a, a ≠ indirectAddress (s.reg ad) → t.mem.read a = s.mem.read a) ∧
    t.program = s.program ∧ t.params = s.params ∧
    ((t.pc = s.pc + 1 ∧ t.faulted = s.faulted ∧ t.cause = s.cause ∧ t.faultInfo = s.faultInfo) ∨
     (t.pc = s.pc ∧ (∀ a, t.mem.read a = s.mem.read a) ∧ t.faulted = true))

/-! ### The sequencer -/

/-- A step of a core that is neither faulted nor halted is the execution of the instruction at `pc` (R150), and a step
is the STEP command. The step adds nothing around it: the instruction's own meaning advances `pc`. -/
def Obligations.StepRunsInstructionAtPc : Prop :=
  ∀ s : State,
    (∀ i, s.faulted = false → s.program[s.pc]? = some i → step s = exec i s) ∧
    step s = .next (command .step s).1

/-- The bits of an instruction, placed where the step fetches, are run as the instruction they decode to (R150, R294;
log 5). -/
def Obligations.FetchedWordIsRun : Prop :=
  ∀ (s : State) (nbits w : Nat) (i : Instr), decodeTableWord nbits w = some i →
    step (s.withFetchWord nbits w) = exec i (s.withFetchWord nbits w)

/-- R151: a step of a halted core returns HALTED and changes nothing, for `pc = PLEN` as for `pc > PLEN`. (In a faulted
core the fault is reported first, R270.) -/
def Obligations.HaltedStepChangesNothing : Prop :=
  ∀ s : State, s.faulted = false → s.plen ≤ s.pc →
    step s = .next s ∧ command .step s = (s, .stepped .halted)

/-- R157: in a faulted core STEP and RUN change nothing and report the recorded fault, a RUN of 0 steps attempting none
(R158); only RESET leaves the faulted state. -/
def Obligations.FaultedCoreIsStuck : Prop :=
  ∀ s : State, s.faulted = true →
    command .step s = (s, .stepped (.fault s.cause s.faultInfo)) ∧
    (∀ k, command (.run (k + 1)) s = (s, .ran (.fault s.cause s.faultInfo) 0)) ∧
    command (.run 0) s = (s, .ran .limit 0) ∧
    (∀ c, c ≠ Command.reset → (command c s).1.faulted = true) ∧
    (command .reset s).1.faulted = false

/-- R153: a step that returns EXECUTED advances `pc` by exactly 1 and no other step changes it; nor does any command but
STEP, RUN and RESET. -/
def Obligations.PcAdvancesByOne : Prop :=
  ∀ s : State,
    (stepResult s = .executed → (command .step s).1.pc = s.pc + 1) ∧
    (stepResult s ≠ .executed → (command .step s).1.pc = s.pc) ∧
    ∀ c, c ≠ Command.reset → c ≠ Command.step → (∀ k, c ≠ Command.run k) → (command c s).1.pc = s.pc

/-- R39 (marked derived): `pc ≤ PLEN` is kept by STEP and RUN. -/
def Obligations.PcStaysWithinProgram : Prop :=
  ∀ s : State, s.pc ≤ s.plen →
    (command .step s).1.pc ≤ (command .step s).1.plen ∧
    ∀ k, (command (.run k) s).1.pc ≤ (command (.run k) s).1.plen

/-- R158 and R226: RUN is the repetition of STEP until it does not return EXECUTED or `maxSteps` calls were made, and the
RUN command answers the reason it stopped for and the number of instructions it executed. -/
def Obligations.RunRepeatsStep : Prop :=
  ∀ s : State,
    (∀ m, command (.run m) s = ((runSteps m s).1, .ran (runSteps m s).2.1 (runSteps m s).2.2)) ∧
    runSteps 0 s = (s, .limit, 0) ∧
    ∀ k, runSteps (k + 1) s =
      match command .step s with
      | (t, .stepped .executed) => ((runSteps k t).1, (runSteps k t).2.1, (runSteps k t).2.2 + 1)
      | (t, .stepped .halted) => (t, .halted, 0)
      | (t, .stepped (.fault c v)) => (t, .fault c v, 0)
      | (t, _) => (t, .limit, 0)

/-- R159 (marked derived): from `pc = 0`, not faulted, with a program of `N` instructions and no fault, RUN executes
`min(N, maxSteps)` instructions and leaves `pc` there; it stops with HALTED when `N < maxSteps` and else with LIMIT. -/
def Obligations.RunOutcome : Prop :=
  ∀ (s t : State) (m n : Nat) (why : StopReason), s.pc = 0 → s.faulted = false → runSteps m s = (t, why, n) →
    (∀ c v, why ≠ .fault c v) →
    t.pc = min s.plen m ∧ n = min s.plen m ∧ (s.plen < m → why = .halted) ∧ (m ≤ s.plen → why = .limit)

/-- R156 (marked derived): at most `PLEN - pc` steps execute, and a longer RUN ends by itself. -/
def Obligations.RunTerminates : Prop :=
  ∀ (s t : State) (m n : Nat) (why : StopReason), runSteps m s = (t, why, n) →
    n ≤ s.plen - s.pc ∧ (s.plen - s.pc < m → why ≠ .limit)

/-- Two RUNs are one (R158): a RUN that stops at its limit can be continued by another. -/
def Obligations.RunContinues : Prop :=
  ∀ (s t u : State) (a b n k : Nat) (why : StopReason), runSteps a s = (t, .limit, n) → runSteps b t = (u, why, k) →
    runSteps (a + b) s = (u, why, n + k)

/-- R160: a fault ends RUN at the faulting instruction: the `n` instructions executed before it keep their effects, in
the state `u`, and the faulting one has none but the recorded fault. -/
def Obligations.RunFaultIsPrecise : Prop :=
  ∀ (s t : State) (m n v : Nat) (c : Cause), runSteps m s = (t, .fault c v, n) →
    ∃ u, runSteps n s = (u, .limit, n) ∧ stepResult u = .fault c v ∧
      t = { u with faulted := true, cause := c, faultInfo := v }

/-! ### Construction, RESET and the status registers -/

/-- R290: the state construction creates, for every choice of the parameters, and the default memory size. `WORD_BITS`
32 and no capacity at State.reset are R10's default and log 2. -/
def Obligations.ConstructedState : Prop :=
  State.reset = State.construct State.reset.params ∧ State.reset.params.memSize = 65536 ∧
  ∀ (p : Params) (s : State), s = State.construct p →
    s.params = p ∧ (∀ j, s.reg j = 0) ∧ (∀ a, s.mem.read a = 0) ∧ s.pc = 0 ∧ s.program = [] ∧ s.plen = 0 ∧
    s.faulted = false ∧ s.cause.code = 0 ∧ s.faultInfo = 0 ∧ s.statusWord = 0x10

/-- R291: RESET zeroes registers, memory, `pc` and the status registers, and keeps the program store and the memory
size; from every state, and with response OK. -/
def Obligations.ResetCommandEffect : Prop :=
  ∀ s : State, ∃ t, command .reset s = (t, .ok) ∧ (∀ j, t.reg j = 0) ∧ (∀ a, t.mem.read a = 0) ∧ t.pc = 0 ∧
    t.faulted = false ∧ t.cause.code = 0 ∧ t.faultInfo = 0 ∧ t.program = s.program ∧ t.plen = s.plen ∧
    t.params = s.params

/-- The fields of STATUS (R48), and that STATUS_READ answers it with HALTED computed at the read and with FAULT_INFO. -/
def Obligations.StatusWordLayout : Prop :=
  ∀ s : State, command .statusRead s = (s, .status s.statusWord s.faultInfo) ∧
    (s.statusWord.getLsbD 0 = s.faulted) ∧ s.statusWord.extractLsb' 1 3 = s.cause.code ∧
    (s.statusWord.getLsbD 4 = true ↔ s.plen ≤ s.pc) ∧ s.statusWord.extractLsb' 5 27 = 0

/-! ### The host commands -/

/-- R221: an error response of any command leaves all state unchanged. (STEP and RUN never answer one: their faults are
responses of their own.) -/
def Obligations.ErrorResponseKeepsState : Prop :=
  ∀ (c : Command) (s : State) (e : CommandError), (command c s).2 = .error e → (command c s).1 = s

/-- R222: in a faulted core STEP and RUN report the recorded fault and change nothing; every other command is accepted as
in a ready one, does and answers the same, and leaves the fault recorded as it is (STATUS_READ reads it); only RESET clears
it. -/
def Obligations.FaultedCoreServesHost : Prop :=
  ∀ (c : Command) (s s' : State) (f : Bool) (ca : Cause) (v : Nat),
    s' = { s with faulted := f, cause := ca, faultInfo := v } →
    (c ≠ Command.reset → c ≠ Command.step → (∀ k, c ≠ Command.run k) → c ≠ Command.statusRead →
      command c s' = ({ (command c s).1 with faulted := f, cause := ca, faultInfo := v }, (command c s).2)) ∧
    command .statusRead s' = (s', .status s'.statusWord v) ∧
    (f = true → command .step s' = (s', .stepped (.fault ca v)) ∧
      ∀ k, command (.run (k + 1)) s' = (s', .ran (.fault ca v) 0)) ∧
    command .reset s' = command .reset s ∧ (command .reset s').1.faulted = false

/-- R42: only a LOAD that succeeds writes the program store, which it replaces whole: every other command keeps it, STEP,
RUN and RESET among them, and so does a LOAD that fails. No instruction reads the store, but by being fetched from it. -/
def Obligations.OnlyLoadWritesProgram : Prop :=
  (∀ (i : Instr) (s : State) (p : List Instr), executePhase i { s with program := p } = executePhase i s) ∧
  ∀ (c : Command) (s : State),
    ((∀ bin, c ≠ .load bin) → (command c s).1.program = s.program) ∧
    ∀ bin, (∃ e, command (.load bin) s = (s, .error e)) ∨
      ∃ prog, load s.params.progCap bin = .ok prog ∧ (command (.load bin) s).1.program = prog

/-- R11: the memory size is chosen at construction, and no command changes it, RESET included; nor the other parameters
of R10. -/
def Obligations.ParametersAreFixed : Prop :=
  (∀ p : Params, (State.construct p).params = p) ∧
  ∀ (c : Command) (s : State),
    (command c s).1.params.memSize = s.params.memSize ∧ (command c s).1.params = s.params

/-- R236 and R231: REG_READ, and PC_READ, which answers `pc` and `PLEN`. -/
def Obligations.RegReadResponse : Prop :=
  ∀ (s : State) (i : Nat),
    (i < 32 → command (.regRead i) s = (s, .value (s.reg i))) ∧
    (32 ≤ i → command (.regRead i) s = (s, .error (.outOfBounds (.reg i)))) ∧
    (CommandError.outOfBounds (.reg i)).cause.code = 4 ∧
    command .pcRead s = (s, .pcIs s.pc s.plen)

/-- R237: REG_WRITE, with the index check before the value check. -/
def Obligations.RegWriteEffect : Prop :=
  ∀ (s : State) (i v : Nat),
    (i < 32 → v < 2 ^ s.params.wordBits →
      ∃ t, command (.regWrite i v) s = (t, .ok) ∧ t.reg i = v ∧ (∀ j, j ≠ i → t.reg j = s.reg j) ∧
        t = { s with regs := t.regs }) ∧
    (32 ≤ i → command (.regWrite i v) s = (s, .error (.outOfBounds (.reg i)))) ∧
    (i < 32 → 2 ^ s.params.wordBits ≤ v → command (.regWrite i v) s = (s, .error (.valueRange v))) ∧
    (CommandError.outOfBounds (.reg i)).cause.code = 4 ∧ (CommandError.valueRange v).cause.code = 7

/-- R238: MEM_WRITE, with the address check before the value check. -/
def Obligations.MemWriteEffect : Prop :=
  ∀ (s : State) (a v : Nat),
    (a < s.params.memSize → v < 2 ^ s.params.wordBits →
      ∃ t, command (.memWrite a v) s = (t, .ok) ∧ t.mem.read a = v ∧
        (∀ b, b ≠ a → t.mem.read b = s.mem.read b) ∧ t = { s with mem := t.mem }) ∧
    (s.params.memSize ≤ a → command (.memWrite a v) s = (s, .error (.outOfBounds (.mem a)))) ∧
    (a < s.params.memSize → 2 ^ s.params.wordBits ≤ v →
      command (.memWrite a v) s = (s, .error (.valueRange v))) ∧
    (CommandError.outOfBounds (.mem a)).cause.code = 3 ∧ (CommandError.valueRange v).cause.code = 7

/-- R90: DUMP answers one pair per address, ascending, from `first` to the smaller of `last` and the last valid address;
it never fails and changes nothing. -/
def Obligations.DumpAnswersPairs : Prop :=
  ∀ (s : State) (first last : Nat), ∃ pairs, command (.dump first last) s = (s, .dumped pairs) ∧
    ∀ k, pairs[k]? =
      if first + k ≤ last ∧ first + k < s.params.memSize then some (first + k, s.mem.read (first + k)) else none

/-- R91 (marked derived): how many pairs DUMP answers. -/
def Obligations.DumpCount : Prop :=
  ∀ (s : State) (first last : Nat) (pairs : List (Nat × Nat)), command (.dump first last) s = (s, .dumped pairs) →
    (pairs.length : Int) = max 0 (min (last : Int) ((s.params.memSize : Int) - 1) - first + 1) ∧
    (first ≤ s.params.memSize → s.params.memSize ≤ last → pairs.length = s.params.memSize - first)

/-- ENCODE answers the record of a well-formed instruction, and InvalidInstructionError, cause 5, for an unknown opcode,
another operand count or an operand out of range; it writes no state (R228). That a number of 128 or more, too, names no
opcode is log 11 (DEDUCED): hence basis 'derived'. -/
def Obligations.EncodeCommandChecks : Prop :=
  (∀ op, (OpcodeRef.mnemonic (mnemonicOf op)).resolve = some op) ∧
  (∀ c op, (OpcodeRef.code c).resolve = some op ↔ c = op.code) ∧
  (∀ why, (CommandError.invalidInstruction why).cause.code = 5) ∧
  ∀ (s : State) (ref : OpcodeRef) (xs : List Nat),
    (ref.resolve = none → ∃ why, command (.encode ref xs) s = (s, .error (.invalidInstruction why))) ∧
    (xs.length ≠ 2 → ∃ why, command (.encode ref xs) s = (s, .error (.invalidInstruction why))) ∧
    ∀ op x y, ref.resolve = some op → xs = [x, y] →
      ((op.instr x y).wellFormed = true → command (.encode ref xs) s = (s, .encoded (encode (op.instr x y)))) ∧
      ((op.instr x y).wellFormed = false → ∃ why, command (.encode ref xs) s = (s, .error (.invalidInstruction why)))

/-- R229: DECODE answers what the decoder gives, with causes 1 and 2 for its errors, and writes no state. -/
def Obligations.DecodeCommandAnswers : Prop :=
  (CommandError.decode .empty).cause.code = 1 ∧
  (∀ c, (CommandError.decode (.unknownOpcode c)).cause.code = 2) ∧
  ∀ (s : State) (b : List Byte),
    (∀ i n, decode b = .ok (i, n) → command (.decode b) s = (s, .decoded i n)) ∧
    (∀ e, decode b = .error e → command (.decode b) s = (s, .error (.decode e)))

/-- A LOAD of encodings into an unbounded program store at `pc = 0` is followed by a step that executes the first
instruction (R125, R150, R294 marked derived). -/
def Obligations.LoadedProgramStartsAtFirst : Prop :=
  ∀ (s : State) (i : Instr) (rest : List Instr), (∀ j ∈ i :: rest, j.wellFormed = true) → s.params.progCap = none →
    s.faulted = false → s.pc = 0 →
    ∃ t, command (.load ((i :: rest).flatMap encode)) s = (t, .loaded (rest.length + 1)) ∧ t.plen = rest.length + 1 ∧
      step t = exec i t

/-! ### Invariants -/

/-- The state after construction is legal, for every legal choice of the parameters; State.reset is one such. The program
store is empty there, so no capacity is exceeded. -/
def Obligations.InvAtConstruction : Prop :=
  State.reset.Inv ∧ ∀ p : Params, p.Legal → (State.construct p).Inv

/-- Every step keeps a state legal (R32, R41, R44, R45, R48, R49; the canonical form of memory is the model's own, log
4): registers and memory words stay `WORD_BITS`-bit values, no address beyond memory is written, the program store stays
well-formed, and a recorded fault is a memory fault. -/
def Obligations.InvKeptByStep : Prop :=
  ∀ s t : State, s.Inv → step s = .next t → t.Inv

/-- Every command of the host keeps a state legal. -/
def Obligations.InvKeptByCommand : Prop :=
  ∀ (s : State) (c : Command), s.Inv → (command c s).1.Inv

/-- R204 (marked derived): if every register and memory word is below `2 ^ 24`, a step of a well-formed program keeps it
so, whatever `WORD_BITS` is. -/
def Obligations.ValuesStayBelow24Bits : Prop :=
  ∀ s t : State, (∀ i ∈ s.program, i.wellFormed = true) → s.Below24 → step s = .next t → t.Below24

/-- R12 (marked derived): a RUN of a well-formed program does the same for every `WORD_BITS ≥ 24`: the same stop, the
same count and the same state, `FAULT_INFO` included, but for the parameter itself. -/
def Obligations.RunIndependentOfWordBits : Prop :=
  ∀ (s s' : State) (w m : Nat), 24 ≤ s.params.wordBits → 24 ≤ w → (∀ i ∈ s.program, i.wellFormed = true) →
    s' = { s with params := { s.params with wordBits := w } } →
    (runSteps m s').2 = (runSteps m s).2 ∧ (runSteps m s').1 = { (runSteps m s).1 with params := s'.params }
end

