-- ==== Sys2Proof/Laws/Codec.lean ====
section
/-!
SUPPORT. The laws of bit fields, little-endian bytes and the descriptor table, and how the loader's scan passes over a
record.
-/

namespace Sys2Proof

/-- A bit field as division and remainder (R14). -/
theorem bits_eq (v hi lo : Nat) : bits v hi lo = v / 2 ^ lo % 2 ^ (hi + 1 - lo) := by
  rw [bits, Nat.shiftRight_eq_div_pow]

/-- A field of `hi + 1 - lo` bits is below that power of two. -/
theorem bits_lt (v hi lo : Nat) : bits v hi lo < 2 ^ (hi + 1 - lo) := Nat.mod_lt _ (Nat.two_pow_pos _)

@[simp] theorem leBytes_length (n v : Nat) : (leBytes n v).length = n := by
  induction n generalizing v with
  | zero => rfl
  | succ n ih => simp [leBytes, ih]

/-- The number of the lowest `n` bytes of `v` is `v` modulo `2 ^ (8n)` (R16). -/
theorem leValue_leBytes (n v : Nat) : leValue (leBytes n v) = v % 2 ^ (8 * n) := by
  induction n generalizing v with
  | zero => simp [leBytes, leValue, Nat.mod_one]
  | succ n ih =>
    rw [leBytes, leValue, ih, BitVec.toNat_ofNat, Nat.shiftRight_eq_div_pow,
      show 8 * (n + 1) = 8 + 8 * n by omega, Nat.pow_add, Nat.mod_mul]

/-- The bytes of the number of a byte string are the byte string. -/
theorem leBytes_leValue (b : List Byte) : leBytes b.length (leValue b) = b := by
  induction b with
  | nil => rfl
  | cons x rest ih =>
    have hlt := x.isLt
    have hx : BitVec.ofNat 8 (leValue (x :: rest)) = x := by
      apply BitVec.eq_of_toNat_eq
      rw [BitVec.toNat_ofNat, leValue]
      omega
    have hr : leValue (x :: rest) >>> 8 = leValue rest := by
      rw [Nat.shiftRight_eq_div_pow, leValue]
      omega
    rw [List.length_cons, leBytes, hx, hr, ih]

/-- A byte string's number is below `2 ^ (8 n)` for `n` bytes. -/
theorem leValue_lt (b : List Byte) : leValue b < 2 ^ (8 * b.length) := by
  rw [← leBytes_leValue b, leValue_leBytes, leBytes_length]
  exact Nat.mod_lt _ (Nat.two_pow_pos _)

/-- The number of a concatenation. -/
theorem leValue_append (a b : List Byte) : leValue (a ++ b) = leValue a + 2 ^ (8 * a.length) * leValue b := by
  induction a with
  | nil => simp [leValue]
  | cons x rest ih =>
    rw [List.cons_append, leValue, ih, leValue, List.length_cons, show 8 * (rest.length + 1) = 8 + 8 * rest.length by omega,
      Nat.pow_add]
    ring

/-- Zero bytes at the high end do not change a number. -/
@[simp] theorem leValue_replicate_zero (n : Nat) : leValue (List.replicate n 0#8) = 0 := by
  induction n with
  | zero => rfl
  | succ n ih => simp [List.replicate_succ, leValue, ih]

/-- Fitting a string to a record width gives exactly that many bytes. -/
@[simp] theorem fitRecord_length (w : Nat) (b : List Byte) : (fitRecord w b).length = w := by
  simp [fitRecord]
  omega

/-- A string of the record's width is its own record. -/
theorem fitRecord_of_length (b : List Byte) : fitRecord b.length b = b := by simp [fitRecord]

/-- Bytes after a whole record do not reach it. -/
theorem fitRecord_append (w : Nat) (b rest : List Byte) (h : b.length = w) : fitRecord w (b ++ rest) = b := by
  subst h
  simp [fitRecord]

/-- Cutting a byte string keeps its number's low bytes. -/
theorem leValue_take (w : Nat) (b : List Byte) : leValue (b.take w) = leValue b % 2 ^ (8 * w) := by
  by_cases h : w ≤ b.length
  · conv_rhs => rw [← List.take_append_drop w b, leValue_append, List.length_take, Nat.min_eq_left h,
      Nat.add_mul_mod_self_left]
    have := leValue_lt (b.take w)
    rw [List.length_take, Nat.min_eq_left h] at this
    exact (Nat.mod_eq_of_lt this).symm
  · rw [List.take_of_length_le (by omega), Nat.mod_eq_of_lt]
    exact lt_of_lt_of_le (leValue_lt b) (Nat.pow_le_pow_right (by decide) (by omega))

/-- The number of a string fitted to a record: its low bytes, the missing ones taken as 0 (R116). -/
theorem leValue_fitRecord (w : Nat) (b : List Byte) : leValue (fitRecord w b) = leValue b % 2 ^ (8 * w) := by
  rw [fitRecord, leValue_append]
  simp [leValue_take]

/-- The opcode of an opcode's own code. -/
@[simp] theorem Opcode.ofCode_code (op : Opcode) : Opcode.ofCode op.code = some op := by cases op <;> rfl

/-- Only an opcode's own code selects it. -/
theorem Opcode.code_of_ofCode (c : Nat) (op : Opcode) (h : Opcode.ofCode c = some op) : op.code = c := by
  have := List.find?_some h
  simpa using this

/-- The code in a first byte is its low 7 bits. -/
theorem codeOf_eq (b : Byte) : codeOf b = b.toNat % 128 := by
  rw [codeOf, BitVec.toNat_and]
  exact Nat.and_two_pow_sub_one_eq_mod b.toNat 7

/-- The code in the first byte is the low 7 bits of the record's number. -/
theorem codeOf_head (b : Byte) (rest : List Byte) : codeOf b = leValue (b :: rest) % 128 := by
  rw [codeOf_eq, leValue]
  omega

/-- What the decoder answers on a string that starts with an assigned code. -/
theorem decode_of_ofCode (b : Byte) (rest : List Byte) (op : Opcode) (h : Opcode.ofCode (codeOf b) = some op) :
    decode (b :: rest) = .ok (decodeFields op (b :: rest), op.recordBytes) := by simp [decode, h]

/-- What the decoder answers on a string that starts with an unassigned code. -/
theorem decode_of_ofCode_none (b : Byte) (rest : List Byte) (h : Opcode.ofCode (codeOf b) = none) :
    decode (b :: rest) = .error (.unknownOpcode (codeOf b)) := by simp [decode, h]

namespace Machine

/-- The scan passes over the bytes that are left of a record. -/
theorem loadScan_skip (cap : Option Nat) (b : List Byte) (skip off count : Nat) :
    loadScan cap b skip off count = loadScan cap (b.drop skip) 0 (off + min skip b.length) count := by
  induction b generalizing skip off with
  | nil => simp [loadScan]
  | cons x rest ih =>
    cases skip with
    | zero => simp
    | succ k =>
      rw [loadScan, ih, List.drop_succ_cons, List.length_cons]
      congr 1
      omega

/-- The scan at the start of a record with an assigned code, when the capacity is not reached: the record's instruction,
then the scan of the bytes after the record. -/
theorem loadScan_record (cap : Option Nat) (b : Byte) (rest : List Byte) (off count : Nat) (op : Opcode)
    (h : Opcode.ofCode (codeOf b) = some op) (hc : exceeds cap (count + 1) = false) :
    loadScan cap (b :: rest) 0 off count =
      match loadScan cap (rest.drop (op.recordBytes - 1)) 0 (off + 1 + min (op.recordBytes - 1) rest.length)
        (count + 1) with
      | .ok prog => .ok (decodeFields op (b :: rest) :: prog)
      | .error e => .error e := by
  rw [← loadScan_skip]
  cases hr : loadScan cap rest (op.recordBytes - 1) (off + 1) (count + 1) <;>
    simp [loadScan, h, hc, hr]

end Machine

end Sys2Proof
end

