-- ==== Sys2Proof/Laws/Memory.lean ====
section
/-!
SUPPORT. The laws of data memory: what a read gives after a write, and that every operation keeps the canonical form.
-/

namespace Sys2Proof.Machine

/-- An address that is not listed reads as 0. -/
theorem Memory.read_of_not_listed (m : Memory) (a : Nat) (h : ∀ p ∈ m, p.1 ≠ a) : m.read a = 0 := by
  induction m with
  | nil => rfl
  | cons p rest ih =>
    simp only [List.mem_cons, forall_eq_or_imp] at h
    simp [Memory.read, h.1, ih h.2]

/-- What a read gives after dropping an address. -/
theorem Memory.read_drop (m : Memory) (a b : Nat) : (m.drop a).read b = if a = b then 0 else m.read b := by
  induction m with
  | nil => simp [Memory.drop, Memory.read]
  | cons p rest ih =>
    unfold Memory.drop at ih ⊢
    by_cases hp : p.1 = a <;> simp only [List.filter_cons, Memory.read] <;> grind [Memory.read]

/-- What a read gives after putting an entry whose address is not listed. -/
theorem Memory.read_put (m : Memory) (a b : Nat) (v : Nat) (h : ∀ p ∈ m, p.1 ≠ a) :
    (m.put a v).read b = if a = b then v else m.read b := by
  induction m with
  | nil => simp [Memory.put, Memory.read]
  | cons p rest ih => grind [Memory.put, Memory.read]

/-- Dropping an address leaves no entry of it. -/
theorem Memory.drop_not_listed (m : Memory) (a : Nat) : ∀ p ∈ m.drop a, p.1 ≠ a := by
  simp [Memory.drop]

/-- A read after a write gives the value written at its address and the old value everywhere else, in every memory. -/
theorem Memory.read_write (m : Memory) (a b : Nat) (v : Nat) :
    (m.write a v).read b = if a = b then v else m.read b := by
  unfold Memory.write
  split
  · rename_i hv
    rw [Memory.read_drop, hv]
  · rw [Memory.read_put _ _ _ _ (m.drop_not_listed a), Memory.read_drop]
    grind

/-- The entries of a memory after `put`. -/
theorem Memory.mem_put (m : Memory) (a : Nat) (v : Nat) (p : Nat × Nat) :
    p ∈ m.put a v ↔ p = (a, v) ∨ p ∈ m := by
  induction m with
  | nil => simp [Memory.put]
  | cons q rest ih => grind [Memory.put]

/-- Every entry after a write is the one written, which is then not 0, or an old one of another address. -/
theorem Memory.mem_write (m : Memory) (a : Nat) (v : Nat) (p : Nat × Nat) (h : p ∈ m.write a v) :
    (p = (a, v) ∧ v ≠ 0) ∨ (p ∈ m ∧ p.1 ≠ a) := by
  unfold Memory.write Memory.drop at h
  split at h
  · simp at h
    grind
  · rw [Memory.mem_put] at h
    simp at h
    grind

/-- Dropping an address keeps the canonical form. -/
theorem Memory.wf_drop (m : Memory) (a : Nat) (h : m.wf) : (m.drop a).wf :=
  ⟨h.1.filter _, fun p hp => h.2 p (List.mem_of_mem_filter hp)⟩

/-- Putting a word that is not 0 at an address that is not listed keeps the canonical form. -/
theorem Memory.wf_put (m : Memory) (a : Nat) (v : Nat) (h : m.wf) (ha : ∀ p ∈ m, p.1 ≠ a) (hv : v ≠ 0) :
    (m.put a v).wf := by
  refine ⟨?_, fun p hp => ?_⟩
  · replace h := h.1
    induction m with
    | nil => simp [Memory.put]
    | cons q rest ih =>
      obtain ⟨b, w⟩ := q
      rw [List.pairwise_cons] at h
      have hrest := ih (fun p hp => ha p (List.mem_cons_of_mem _ hp)) h.2
      have hq := ha (b, w) List.mem_cons_self
      unfold Memory.put
      split
      · rename_i hlt
        rw [List.pairwise_cons, List.pairwise_cons]
        refine ⟨fun p hp => ?_, h⟩
        rcases List.mem_cons.1 hp with rfl | hp
        · exact hlt
        · exact Nat.lt_trans hlt (h.1 p hp)
      · rw [List.pairwise_cons]
        refine ⟨fun p hp => ?_, hrest⟩
        rcases (Memory.mem_put _ _ _ _).1 hp with rfl | hp
        · simp at hq ⊢
          omega
        · exact h.1 p hp
  · rcases (Memory.mem_put _ _ _ _).1 hp with rfl | hp
    · exact hv
    · exact h.2 p hp

/-- A write keeps the canonical form. -/
theorem Memory.wf_write (m : Memory) (a : Nat) (v : Nat) (h : m.wf) : (m.write a v).wf := by
  unfold Memory.write
  split
  · exact m.wf_drop a h
  · exact (m.drop a).wf_put a v (m.wf_drop a h) (m.drop_not_listed a) ‹_›

/-- The memory of the state after construction has the canonical form. -/
theorem Memory.wf_construct (p : Params) : (State.construct p).mem.wf := ⟨List.Pairwise.nil, by simp [State.construct]⟩

/-- The memory of the state after reset has the canonical form. -/
theorem Memory.wf_reset : State.reset.mem.wf := Memory.wf_construct Params.initial

end Sys2Proof.Machine
end

