-- ==== Sys2Proof/Laws/State.lean ====
section
/-!
SUPPORT. What each update of the state does to each field: one lemma per field per update, so that no proof unfolds a
record update.
-/

namespace Sys2Proof.Machine


@[simp] theorem State.setReg_params (s : State) (i : Nat) (v : Nat) : (s.setReg i v).params = s.params := rfl
@[simp] theorem State.setReg_regs (s : State) (i : Nat) (v : Nat) : (s.setReg i v).regs = s.regs.setIfInBounds i v := rfl
@[simp] theorem State.setReg_mem (s : State) (i : Nat) (v : Nat) : (s.setReg i v).mem = s.mem := rfl
@[simp] theorem State.setReg_pc (s : State) (i : Nat) (v : Nat) : (s.setReg i v).pc = s.pc := rfl
@[simp] theorem State.setReg_program (s : State) (i : Nat) (v : Nat) : (s.setReg i v).program = s.program := rfl
@[simp] theorem State.setReg_faulted (s : State) (i : Nat) (v : Nat) : (s.setReg i v).faulted = s.faulted := rfl
@[simp] theorem State.setReg_cause (s : State) (i : Nat) (v : Nat) : (s.setReg i v).cause = s.cause := rfl
@[simp] theorem State.setReg_faultInfo (s : State) (i : Nat) (v : Nat) : (s.setReg i v).faultInfo = s.faultInfo := rfl

@[simp] theorem State.setMem_params (s : State) (a : Nat) (v : Nat) : (s.setMem a v).params = s.params := rfl
@[simp] theorem State.setMem_regs (s : State) (a : Nat) (v : Nat) : (s.setMem a v).regs = s.regs := rfl
@[simp] theorem State.setMem_mem (s : State) (a : Nat) (v : Nat) : (s.setMem a v).mem = s.mem.write a v := rfl
@[simp] theorem State.setMem_pc (s : State) (a : Nat) (v : Nat) : (s.setMem a v).pc = s.pc := rfl
@[simp] theorem State.setMem_program (s : State) (a : Nat) (v : Nat) : (s.setMem a v).program = s.program := rfl
@[simp] theorem State.setMem_faulted (s : State) (a : Nat) (v : Nat) : (s.setMem a v).faulted = s.faulted := rfl
@[simp] theorem State.setMem_cause (s : State) (a : Nat) (v : Nat) : (s.setMem a v).cause = s.cause := rfl
@[simp] theorem State.setMem_faultInfo (s : State) (a : Nat) (v : Nat) : (s.setMem a v).faultInfo = s.faultInfo := rfl

@[simp] theorem State.commit_reg_params (s : State) (i : Nat) (v : Nat) : (s.commit (.reg i v)).params = s.params := rfl
@[simp] theorem State.commit_reg_regs (s : State) (i : Nat) (v : Nat) : (s.commit (.reg i v)).regs = s.regs.setIfInBounds i v := rfl
@[simp] theorem State.commit_reg_mem (s : State) (i : Nat) (v : Nat) : (s.commit (.reg i v)).mem = s.mem := rfl
@[simp] theorem State.commit_reg_pc (s : State) (i : Nat) (v : Nat) : (s.commit (.reg i v)).pc = s.pc + 1 := rfl
@[simp] theorem State.commit_reg_program (s : State) (i : Nat) (v : Nat) : (s.commit (.reg i v)).program = s.program := rfl
@[simp] theorem State.commit_reg_faulted (s : State) (i : Nat) (v : Nat) : (s.commit (.reg i v)).faulted = s.faulted := rfl
@[simp] theorem State.commit_reg_cause (s : State) (i : Nat) (v : Nat) : (s.commit (.reg i v)).cause = s.cause := rfl
@[simp] theorem State.commit_reg_faultInfo (s : State) (i : Nat) (v : Nat) : (s.commit (.reg i v)).faultInfo = s.faultInfo := rfl

@[simp] theorem State.commit_mem_params (s : State) (a : Nat) (v : Nat) : (s.commit (.mem a v)).params = s.params := rfl
@[simp] theorem State.commit_mem_regs (s : State) (a : Nat) (v : Nat) : (s.commit (.mem a v)).regs = s.regs := rfl
@[simp] theorem State.commit_mem_mem (s : State) (a : Nat) (v : Nat) : (s.commit (.mem a v)).mem = s.mem.write a v := rfl
@[simp] theorem State.commit_mem_pc (s : State) (a : Nat) (v : Nat) : (s.commit (.mem a v)).pc = s.pc + 1 := rfl
@[simp] theorem State.commit_mem_program (s : State) (a : Nat) (v : Nat) : (s.commit (.mem a v)).program = s.program := rfl
@[simp] theorem State.commit_mem_faulted (s : State) (a : Nat) (v : Nat) : (s.commit (.mem a v)).faulted = s.faulted := rfl
@[simp] theorem State.commit_mem_cause (s : State) (a : Nat) (v : Nat) : (s.commit (.mem a v)).cause = s.cause := rfl
@[simp] theorem State.commit_mem_faultInfo (s : State) (a : Nat) (v : Nat) : (s.commit (.mem a v)).faultInfo = s.faultInfo := rfl

@[simp] theorem State.enterFault_params (s : State) (e : OutOfBounds) : (s.enterFault e).params = s.params := rfl
@[simp] theorem State.enterFault_regs (s : State) (e : OutOfBounds) : (s.enterFault e).regs = s.regs := rfl
@[simp] theorem State.enterFault_mem (s : State) (e : OutOfBounds) : (s.enterFault e).mem = s.mem := rfl
@[simp] theorem State.enterFault_pc (s : State) (e : OutOfBounds) : (s.enterFault e).pc = s.pc := rfl
@[simp] theorem State.enterFault_program (s : State) (e : OutOfBounds) : (s.enterFault e).program = s.program := rfl
@[simp] theorem State.enterFault_faulted (s : State) (e : OutOfBounds) : (s.enterFault e).faulted = true := rfl
@[simp] theorem State.enterFault_cause (s : State) (e : OutOfBounds) : (s.enterFault e).cause = e.cause := rfl
@[simp] theorem State.enterFault_faultInfo (s : State) (e : OutOfBounds) : (s.enterFault e).faultInfo = e.info := rfl

@[simp] theorem State.resetCore_params (s : State) : s.resetCore.params = s.params := rfl
@[simp] theorem State.resetCore_regs (s : State) : s.resetCore.regs = Vector.replicate 32 0 := rfl
@[simp] theorem State.resetCore_mem (s : State) : s.resetCore.mem = [] := rfl
@[simp] theorem State.resetCore_pc (s : State) : s.resetCore.pc = 0 := rfl
@[simp] theorem State.resetCore_program (s : State) : s.resetCore.program = s.program := rfl
@[simp] theorem State.resetCore_faulted (s : State) : s.resetCore.faulted = false := rfl
@[simp] theorem State.resetCore_cause (s : State) : s.resetCore.cause = .none := rfl
@[simp] theorem State.resetCore_faultInfo (s : State) : s.resetCore.faultInfo = 0 := rfl

@[simp] theorem State.construct_params (p : Params) : (State.construct p).params = p := rfl
@[simp] theorem State.construct_regs (p : Params) : (State.construct p).regs = Vector.replicate 32 0 := rfl
@[simp] theorem State.construct_mem (p : Params) : (State.construct p).mem = [] := rfl
@[simp] theorem State.construct_pc (p : Params) : (State.construct p).pc = 0 := rfl
@[simp] theorem State.construct_program (p : Params) : (State.construct p).program = [] := rfl
@[simp] theorem State.construct_faulted (p : Params) : (State.construct p).faulted = false := rfl
@[simp] theorem State.construct_cause (p : Params) : (State.construct p).cause = .none := rfl
@[simp] theorem State.construct_faultInfo (p : Params) : (State.construct p).faultInfo = 0 := rfl

/-! The views of a state that are computed from its fields. -/

@[simp] theorem State.setReg_plen (s : State) (i : Nat) (v : Nat) : (s.setReg i v).plen = s.plen := rfl
@[simp] theorem State.setMem_plen (s : State) (a : Nat) (v : Nat) : (s.setMem a v).plen = s.plen := rfl
@[simp] theorem State.commit_plen (s : State) (w : Write) : (s.commit w).plen = s.plen := by cases w <;> rfl
@[simp] theorem State.commit_params (s : State) (w : Write) : (s.commit w).params = s.params := by cases w <;> rfl
@[simp] theorem State.commit_pc (s : State) (w : Write) : (s.commit w).pc = s.pc + 1 := by cases w <;> rfl
@[simp] theorem State.commit_program (s : State) (w : Write) : (s.commit w).program = s.program := by cases w <;> rfl
@[simp] theorem State.commit_faulted (s : State) (w : Write) : (s.commit w).faulted = s.faulted := by cases w <;> rfl
@[simp] theorem State.commit_cause (s : State) (w : Write) : (s.commit w).cause = s.cause := by cases w <;> rfl
@[simp] theorem State.commit_faultInfo (s : State) (w : Write) : (s.commit w).faultInfo = s.faultInfo := by
  cases w <;> rfl
@[simp] theorem State.enterFault_plen (s : State) (e : OutOfBounds) : (s.enterFault e).plen = s.plen := rfl
@[simp] theorem State.resetCore_plen (s : State) : s.resetCore.plen = s.plen := rfl

/-- A register after a register write: the new value at that index, and the old one elsewhere. -/
theorem State.reg_setReg (s : State) (i j : Nat) (v : Nat) :
    (s.setReg i v).reg j = if i = j ∧ i < 32 then v else s.reg j := by
  unfold State.reg
  simp only [State.setReg_regs, Vector.getElem?_setIfInBounds]
  grind

/-- Committing a register write gives the registers `setReg` gives. -/
theorem State.reg_commit_reg (s : State) (i j : Nat) (v : Nat) :
    (s.commit (.reg i v)).reg j = if i = j ∧ i < 32 then v else s.reg j := State.reg_setReg s i j v

@[simp] theorem State.reg_setMem (s : State) (a j : Nat) (v : Nat) : (s.setMem a v).reg j = s.reg j := rfl
@[simp] theorem State.reg_commit_mem (s : State) (a j : Nat) (v : Nat) :
    (s.commit (.mem a v)).reg j = s.reg j := rfl
@[simp] theorem State.reg_enterFault (s : State) (e : OutOfBounds) (j : Nat) : (s.enterFault e).reg j = s.reg j := rfl

/-- Every register of a cleared register file is 0. -/
theorem State.reg_of_replicate (s : State) (h : s.regs = Vector.replicate 32 0) (j : Nat) : s.reg j = 0 := by
  unfold State.reg
  rw [h]
  grind

/-- The core is halted exactly when there is nothing to fetch (R151). -/
theorem State.fetch_eq_none (s : State) : s.fetch = none ↔ s.plen ≤ s.pc := by
  simp [State.fetch, State.plen]

/-- `STATUS.HALTED` is the halting condition (R48, R151). -/
theorem State.halted_iff (s : State) : s.halted = true ↔ s.plen ≤ s.pc := by simp [State.halted]

end Sys2Proof.Machine
end

