-- ==== Sys2Proof/Laws/Ops.lean ====
section
/-!
SUPPORT. What each shared operation and each execute phase can answer, said once; and what one step can do.
-/

namespace Sys2Proof.Machine

open Host (Outcome)

theorem State.checkReg_eq (s : State) (i : Nat) :
    s.checkReg i = if 32 ≤ i then .error (.reg i) else .ok () := rfl

theorem State.checkMem_eq (s : State) (a : Nat) :
    s.checkMem a = if s.params.memSize ≤ a then .error (.mem a) else .ok () := rfl

/-- A register operand: the register's value, or the register fault. -/
theorem State.regOperand_eq (s : State) (i : Nat) :
    s.regOperand i = if 32 ≤ i then .error (.reg i) else .ok (s.reg i) := by
  simp only [State.regOperand, State.checkReg]
  split <;> rfl

/-- A memory read: the word, or the memory fault (R72). -/
theorem State.memRead_eq (s : State) (a : Nat) :
    s.memRead a = if s.params.memSize ≤ a then .error (.mem a) else .ok (s.mem.read a) := by
  simp only [State.memRead, State.checkMem]
  split <;> rfl

/-- A memory write: the step's write, or the memory fault (R73). -/
theorem State.memWrite_eq (s : State) (a : Nat) (v : Nat) :
    s.memWrite a v = if s.params.memSize ≤ a then .error (.mem a) else .ok (.mem a v) := by
  simp only [State.memWrite, State.checkMem]
  split <;> rfl

/-- What LoadConst's execute phase answers. -/
theorem loadConstPhase_eq (reg const : Nat) (s : State) :
    loadConstPhase reg const s =
      if 32 ≤ reg then .error (.reg reg) else .ok (.reg reg (zext s.params.wordBits const)) := by
  simp only [loadConstPhase, State.checkReg]
  split <;> rfl

/-- What ReadMem's execute phase answers. -/
theorem readMemPhase_eq (srcReg dstReg : Nat) (s : State) :
    readMemPhase srcReg dstReg s =
      if 32 ≤ srcReg then .error (.reg srcReg)
      else if 32 ≤ dstReg then .error (.reg dstReg)
      else if s.params.memSize ≤ s.reg srcReg then .error (.mem (s.reg srcReg))
      else .ok (.reg dstReg (s.mem.read (s.reg srcReg))) := by
  simp only [readMemPhase, State.regOperand_eq, State.checkReg_eq, State.memRead_eq, indirectAddress]
  split
  · rfl
  · split
    · rfl
    · by_cases h : s.params.memSize ≤ s.reg srcReg <;> simp [h, bind, Except.bind, pure, Except.pure]

/-- What WriteMem's execute phase answers. -/
theorem writeMemPhase_eq (srcReg addrReg : Nat) (s : State) :
    writeMemPhase srcReg addrReg s =
      if 32 ≤ srcReg then .error (.reg srcReg)
      else if 32 ≤ addrReg then .error (.reg addrReg)
      else if s.params.memSize ≤ s.reg addrReg then .error (.mem (s.reg addrReg))
      else .ok (.mem (s.reg addrReg) (s.reg srcReg)) := by
  simp only [writeMemPhase, State.regOperand_eq, State.memWrite_eq, indirectAddress]
  split
  · rfl
  · split <;> rfl

/-- What ShiftRight's execute phase answers. -/
theorem shiftRightPhase_eq (reg memAddr : Nat) (s : State) :
    shiftRightPhase reg memAddr s =
      if 32 ≤ reg then .error (.reg reg)
      else if s.params.memSize ≤ memAddr then .error (.mem memAddr)
      else .ok (.reg reg (lsr (s.reg reg) (s.mem.read memAddr))) := by
  simp only [shiftRightPhase, State.regOperand_eq, State.memRead_eq, directAddress]
  split
  · rfl
  · by_cases h : s.params.memSize ≤ memAddr <;> simp [h, bind, Except.bind, pure, Except.pure]

/-- Executing an instruction is completing the step with its execute phase. -/
theorem exec_eq_retire (i : Instr) (s : State) : exec i s = s.retire (executePhase i s) := by cases i <;> rfl

/-- A completed step answers a next state, whatever its execute phase gave. -/
theorem State.retire_eq_next (s : State) (r : Except OutOfBounds Write) :
    s.retire r = .next (match r with | .ok w => s.commit w | .error e => s.enterFault e) := by cases r <;> rfl

/-- The three things a step can do: nothing, in a faulted or a halted core; complete the instruction at `pc`; take the
fault it raises. -/
theorem stepState_cases (s : State) :
    (s.faulted = true ∧ stepState s = s ∧ stepResult s = .fault s.cause s.faultInfo) ∨
    (s.faulted = false ∧ s.fetch = none ∧ stepState s = s ∧ stepResult s = .halted) ∨
    (∃ i w, s.faulted = false ∧ s.fetch = some i ∧ executePhase i s = .ok w ∧
      stepState s = s.commit w ∧ stepResult s = .executed) ∨
    (∃ i e, s.faulted = false ∧ s.fetch = some i ∧ executePhase i s = .error e ∧
      stepState s = s.enterFault e ∧ stepResult s = .fault e.cause e.info) := by
  cases hf : s.faulted with
  | true => simp [stepState, stepOutcome, stepResult, hf]
  | false =>
    cases hi : s.fetch with
    | none => simp [stepState, stepOutcome, stepResult, hf, hi]
    | some i =>
      cases hr : executePhase i s <;>
        simp [stepState, stepOutcome, stepResult, hf, hi, hr, exec_eq_retire, State.retire]

/-- Every step answers a next state. -/
theorem step_eq_next (s : State) : step s = .next (stepState s) := by
  unfold step stepState stepOutcome
  cases s.faulted with
  | true => rfl
  | false =>
    cases s.fetch with
    | none => rfl
    | some i =>
      simp only [exec_eq_retire, State.retire_eq_next]
      rfl

/-- The write of a completed instruction is one of these four. -/
theorem executePhase_ok (i : Instr) (s : State) (w : Write) (h : executePhase i s = .ok w) :
    (∃ reg const, i = .loadConst reg const ∧ reg < 32 ∧ w = .reg reg (zext s.params.wordBits const)) ∨
    (∃ src dst, i = .readMem src dst ∧ src < 32 ∧ dst < 32 ∧ s.reg src < s.params.memSize ∧
      w = .reg dst (s.mem.read (s.reg src))) ∨
    (∃ src addr, i = .writeMem src addr ∧ src < 32 ∧ addr < 32 ∧ s.reg addr < s.params.memSize ∧
      w = .mem (s.reg addr) (s.reg src)) ∨
    (∃ reg m, i = .shiftRight reg m ∧ reg < 32 ∧ m < s.params.memSize ∧
      w = .reg reg (lsr (s.reg reg) (s.mem.read m))) := by
  cases i <;>
    simp only [executePhase, loadConstPhase_eq, readMemPhase_eq, writeMemPhase_eq, shiftRightPhase_eq] at h <;>
    grind

/-- The fault of a well-formed instruction is a memory fault of an address outside memory, and never LoadConst's. -/
theorem executePhase_error (i : Instr) (s : State) (e : OutOfBounds) (hi : i.wellFormed = true)
    (h : executePhase i s = .error e) :
    ∃ a, e = .mem a ∧ s.params.memSize ≤ a ∧ (a < 2 ^ 30 ∨ ∃ j, j < 32 ∧ a = s.reg j) := by
  cases i <;>
    simp only [executePhase, loadConstPhase_eq, readMemPhase_eq, writeMemPhase_eq, shiftRightPhase_eq] at h <;>
    simp [Instr.wellFormed, Instr.operandBounds] at hi <;> grind

end Sys2Proof.Machine
end

