-- ==== Sys2Proof/Laws/PerInstr.lean ====
section
/-!
SUPPORT. The family Fields, a statement about each instruction as syntax: its opcode and fields give it back (R102), and
it is well-formed exactly when its fields fit theirs (R101, R103).
-/

namespace Sys2Proof.Laws

/-- An instruction is its opcode with its fields B and A, and is well-formed when both fit. -/
def Fields.Statement (i : Instr) : Prop :=
  i.opcode.instr i.fieldB i.fieldA = i ∧ (i.wellFormed = true ↔ i.fieldB < 32 ∧ i.fieldA < 2 ^ i.opcode.aBits)

theorem Fields.loadConst (reg const : Nat) : Fields.Statement (.loadConst reg const) := by
  simp [Fields.Statement, Instr.opcode, Opcode.instr, Instr.fieldB, Instr.fieldA, Instr.wellFormed,
    Instr.operandBounds, Opcode.aBits, Opcode.descriptor]

theorem Fields.readMem (srcReg dstReg : Nat) : Fields.Statement (.readMem srcReg dstReg) := by
  simp [Fields.Statement, Instr.opcode, Opcode.instr, Instr.fieldB, Instr.fieldA, Instr.wellFormed,
    Instr.operandBounds, Opcode.aBits, Opcode.descriptor]

theorem Fields.writeMem (srcReg addrReg : Nat) : Fields.Statement (.writeMem srcReg addrReg) := by
  simp [Fields.Statement, Instr.opcode, Opcode.instr, Instr.fieldB, Instr.fieldA, Instr.wellFormed,
    Instr.operandBounds, Opcode.aBits, Opcode.descriptor]

theorem Fields.shiftRight (reg memAddr : Nat) : Fields.Statement (.shiftRight reg memAddr) := by
  simp [Fields.Statement, Instr.opcode, Opcode.instr, Instr.fieldB, Instr.fieldA, Instr.wellFormed,
    Instr.operandBounds, Opcode.aBits, Opcode.descriptor]

/-- No operand is out of range exactly in a well-formed instruction, so construction (R101) refuses the others. -/
theorem badOperand_eq_none (i : Instr) : i.badOperand = none ↔ i.wellFormed = true := by
  cases i <;> simp [Instr.badOperand, Instr.wellFormed, Instr.operandBounds]

end Sys2Proof.Laws
end

