-- ==== Sys2Proof/Tests/Slice0.lean ====
section
/-!
SUPPORT. The model's own tests. Expected values come from spec/95_test_vectors.md (the vector's name stands in the comment)
or are worked out by hand from the rule named; then, for every statement with hypotheses, a state and operands that meet
them.
-/

namespace Sys2Proof.Tests

open Sys2Proof Sys2Proof.Machine

/-- A core with a one-instruction program at `pc = 0` (95, section 2.5). -/
def one (i : Instr) : State := { State.reset with program := [i] }

/-! ### Well-formedness (R101): one ill-formed term for each check -/

theorem test_wellFormed_limits :
    Instr.wellFormed (.loadConst 31 16777215) = true ∧ Instr.wellFormed (.readMem 31 31) = true ∧
    Instr.wellFormed (.writeMem 31 31) = true ∧ Instr.wellFormed (.shiftRight 31 1073741823) = true := by decide

/-- X1 to X5, and the checks they leave out. -/
theorem test_wellFormed_refuses :
    Instr.wellFormed (.loadConst 32 0) = false ∧ Instr.wellFormed (.loadConst 1 16777216) = false ∧
    Instr.wellFormed (.readMem 32 0) = false ∧ Instr.wellFormed (.readMem 0 32) = false ∧
    Instr.wellFormed (.writeMem 32 0) = false ∧ Instr.wellFormed (.writeMem 0 32) = false ∧
    Instr.wellFormed (.shiftRight 32 0) = false ∧ Instr.wellFormed (.shiftRight 0 1073741824) = false := by decide

/-! ### Encodings, bit by bit from the table's pattern `u… A… BBBBB CCCCCCC` (R104, R107, R108) -/

/-- E2 and D7: LoadConst r1, 5, the unused bits clear and then set. -/
theorem test_decode_loadConst :
    decodeTableWord 40 0b0000_000000000000000000000101_00001_0101100 = some (.loadConst 1 5) ∧
    decodeTableWord 40 0b1111_000000000000000000000101_00001_0101100 = some (.loadConst 1 5) := by decide

/-- E8: ReadMem r2, r3 (D11 sets the unused bits). -/
theorem test_decode_readMem :
    decodeTableWord 24 0b0000000_00011_00010_1111000 = some (.readMem 2 3) ∧
    decodeTableWord 24 0b1111111_00011_00010_1111000 = some (.readMem 2 3) := by decide

/-- E13: WriteMem r3, r2: the data register in B, the address register in A (R184). -/
theorem test_decode_writeMem :
    decodeTableWord 24 0b0000000_00010_00011_0100010 = some (.writeMem 3 2) := by decide

/-- E18 and E22: ShiftRight r0, [500] and the largest fields. -/
theorem test_decode_shiftRight :
    decodeTableWord 48 0b000000_000000000000000000000111110100_00000_0100101 = some (.shiftRight 0 500) ∧
    decodeTableWord 48 0b000000_111111111111111111111111111111_11111_0100101 = some (.shiftRight 31 1073741823) := by
  decide

/-- E4, E9, E15, E21: the record bytes. -/
theorem test_encode_records :
    encode (.loadConst 31 16777215) = [0xAC, 0xFF, 0xFF, 0xFF, 0x0F] ∧ encode (.readMem 1 0) = [0xF8, 0x00, 0x00] ∧
    encode (.writeMem 0 1) = [0x22, 0x10, 0x00] ∧
    encode (.shiftRight 0 65536) = [0x25, 0x00, 0x00, 0x10, 0x00, 0x00] := by decide

/-- The four codes are told apart, and no other code is an instruction (R133). -/
theorem test_assigned_codes :
    (List.range 128).filter (fun c => (Opcode.ofCode c).isSome) = [34, 37, 44, 120] := by decide

/-- Decoder ports for D9 (bytes above `dec_n` hold anything) and D2. -/
theorem test_decoder_ports :
    decoderPorts 0xFFFFFFFF812C 2 = { err := 0, code := 44, b := 2, a := 8, len := 5 } ∧
    decoderPorts 0 1 = { err := 2, code := 0, b := 0, a := 0, len := 0 } := by decide

/-- Encoder ports for E8 and X3. -/
theorem test_encoder_ports :
    encoderPorts 120 2 3 = { bytes := 0x003178, len := 3, err := 0 } ∧
    encoderPorts 120 0 32 = { bytes := 0, len := 0, err := 5 } := by decide

/-! ### The loader -/

/-- L3 and L4. -/
theorem test_load_programs :
    load none [0x2C, 0x81, 0x3E, 0x00, 0x00, 0x78, 0x31, 0x00, 0x25, 0x40, 0x1F, 0x00, 0x00, 0x00] =
      .ok [.loadConst 2 1000, .readMem 2 3, .shiftRight 0 500] ∧
    load none [0xAC, 0x50, 0x00, 0x00, 0x00, 0x2C, 0x81] = .ok [.loadConst 1 5, .loadConst 2 8] := ⟨rfl, rfl⟩

/-- L5 and L8. -/
theorem test_load_errors :
    load none [0xAC, 0x50, 0x00, 0x00, 0x00, 0x00, 0x78, 0x31, 0x00] = .error (.unknownOpcode 0 5) ∧
    load (some 3) [0x78, 0, 0, 0x78, 0, 0, 0x78, 0, 0, 0x78, 0, 0] = .error (.capacity 4) := ⟨rfl, rfl⟩

/-! ### The instructions, one step each -/

/-- LC2: the whole register is replaced. -/
theorem test_loadConst_replaces :
    (stepState ((one (.loadConst 31 16777215)).setReg 31 0xFFFFFFFF)).reg 31 = 0x00FFFFFF := by decide

/-- LC1: r0 is an ordinary register, and `pc` advances. -/
theorem test_loadConst_r0 :
    (stepState ((one (.loadConst 0 0)).setReg 0 7)).reg 0 = 0 ∧
    (stepState ((one (.loadConst 0 0)).setReg 0 7)).pc = 1 := by decide

/-- RM2: the address is read before the write. -/
theorem test_readMem_aliased :
    (stepState (((one (.readMem 7 7)).setReg 7 2).setMem 2 9)).reg 7 = 9 := by decide

/-- RM4 and H3: STATUS is `0x07`, FAULT_INFO the address, and `pc` still names the instruction. -/
theorem test_readMem_faults :
    (stepState ((one (.readMem 0 1)).setReg 0 65536)).statusWord = 0x07 ∧
    (stepState ((one (.readMem 0 1)).setReg 0 65536)).faultInfo = 65536 ∧
    (stepState ((one (.readMem 0 1)).setReg 0 65536)).pc = 0 := by decide

/-- WM1: data first, address second. -/
theorem test_writeMem_stores :
    (stepState (((one (.writeMem 3 2)).setReg 3 10).setReg 2 1000)).mem = [(1000, 10)] := by decide

/-- WM4: no memory word changes. -/
theorem test_writeMem_faults :
    (stepState (((one (.writeMem 4 8)).setReg 4 1).setReg 8 65536)).mem = [] ∧
    (stepState (((one (.writeMem 4 8)).setReg 4 1).setReg 8 65536)).cause = .memOutOfBounds := by decide

/-- SR1 and SR6: an amount above the width is not masked. -/
theorem test_shiftRight_amounts :
    (stepState (((one (.shiftRight 0 500)).setReg 0 255).setMem 500 2)).reg 0 = 63 ∧
    (stepState (((one (.shiftRight 0 7)).setReg 0 0x80000000).setMem 7 33)).reg 0 = 0 := by decide

/-- SR9. -/
theorem test_shiftRight_faults :
    (stepState ((one (.shiftRight 0 65536)).setReg 0 8)).reg 0 = 8 ∧
    (stepState ((one (.shiftRight 0 65536)).setReg 0 8)).faultInfo = 65536 := by decide

/-! ### The host -/

/-- Example A: LOAD, STEP, then STATUS, `pc` with `PLEN`, and r1. -/
theorem test_example_A :
    (session [.load [0xAC, 0x50, 0x00, 0x00, 0x00], .step, .statusRead, .pcRead, .regRead 1] State.reset).2 =
      [.loaded 1, .stepped .executed, .status 0x10 0, .pcIs 1 1, .value 5] := by decide

/-- H1, H5, H7, H8. -/
theorem test_host_commands :
    (command .statusRead State.reset).2 = .status 0x10 0 ∧
    (command (.regWrite 32 1) State.reset).2 = .error (.outOfBounds (.reg 32)) ∧
    (command (.regWrite 40 (2 ^ 32)) State.reset).2 = .error (.outOfBounds (.reg 40)) ∧
    (command (.memWrite 65536 1) State.reset).2 = .error (.outOfBounds (.mem 65536)) := by decide

/-- H10 and X6, X8, X9. -/
theorem test_encode_command :
    encodeResponse (.mnemonic "ReadMem") [2, 3] = .encoded [0x78, 0x31, 0x00] ∧
    encodeResponse (.code 44) [1] = .error (.invalidInstruction .operandCount) ∧
    encodeResponse (.code 127) [] = .error (.invalidInstruction .unknownOpcode) ∧
    encodeResponse (.code 45) [0, 0, 0, 0, 0, 0, 0] = .error (.invalidInstruction .unknownOpcode) := by decide

/-- DP3 and DP5: the end is clamped, and a start past the end is empty. -/
theorem test_dump_clamps :
    ((State.reset.setMem 65535 4).dumpRange 65530 70000) =
      [(65530, 0), (65531, 0), (65532, 0), (65533, 0), (65534, 0), (65535, 4)] ∧
    State.reset.dumpRange 70000 80000 = [] := by decide

/-- A word of each row, placed at reset, is run by the next step. -/
theorem test_withFetchWord_runs :
    (stepState (State.reset.withFetchWord 40 0x50AC)).reg 1 = 5 ∧
    (stepState (State.reset.withFetchWord 24 0x3178)).pc = 1 ∧
    (stepState (State.reset.withFetchWord 24 0x21A2)).pc = 1 ∧
    (stepState (State.reset.withFetchWord 48 0x1F4025)).pc = 1 := by decide

/-! ### Witnesses: what each statement's hypotheses admit, at the boundaries of their ranges -/

theorem witness_wellFormed_operands :
    (31 < 32 ∧ 16777215 < 2 ^ 24 ∧ 1073741823 < 2 ^ 30) ∧ Instr.wellFormed (.shiftRight 31 1073741823) = true ∧
    Instr.wellFormed (.loadConst 0 0) = true := by decide

/-- DecodeErrorCases: `0xAD` has code 45, `0xAC` code 44. -/
theorem witness_DecodeErrorCases :
    codeOf 0xAD ∉ [44, 120, 34, 37] ∧ codeOf 0xAC ∈ [44, 120, 34, 37] := by decide

/-- DecodePadsAndCuts: a first byte of LoadConst, two bytes (short), five (exact) and six (long). -/
theorem witness_DecodePadsAndCuts :
    codeOf 0x2C = Opcode.loadConst.code ∧ ([0x2C, 0x81] : List Byte).length < Opcode.loadConst.recordBytes ∧
    Opcode.loadConst.recordBytes ≤ ([0x2C, 0, 0, 0, 0] : List Byte).length ∧
    Opcode.loadConst.recordBytes ≤ ([0x2C, 0, 0, 0, 0, 0] : List Byte).length := by decide

/-- DecodeMasksFields and EncodeOfDecodeCanonical: the records of D6 and D7, which differ in unused bits alone. -/
theorem witness_DecodeMasksFields :
    ([0xAC, 0x50, 0, 0, 0] : List Byte).length = Opcode.loadConst.recordBytes ∧
    leValue [0xAC, 0x50, 0, 0, 0] % 2 ^ 7 = Opcode.loadConst.code ∧
    leValue [0xAC, 0x50, 0, 0, 0xF0] % 2 ^ (12 + Opcode.loadConst.aBits) =
      leValue [0xAC, 0x50, 0, 0, 0] % 2 ^ (12 + Opcode.loadConst.aBits) := by decide

theorem witness_EncodeOfDecodeCanonical :
    decode [0xAC, 0x50, 0, 0, 0xF0] = .ok (.loadConst 1 5, 5) ∧ decode [0xAC, 0x50, 0, 0, 0] = .ok (.loadConst 1 5, 5) :=
  ⟨rfl, rfl⟩

/-- EncoderUnitOutputs: accepted inputs at the top of their ranges, and each way to be refused. -/
theorem witness_EncoderUnitOutputs :
    (120#7).toNat = Opcode.readMem.code ∧ (31#8).toNat < 32 ∧ (31#32).toNat < 2 ^ Opcode.readMem.aBits ∧
    32 ≤ (32#8).toNat ∧ 2 ^ Opcode.readMem.aBits ≤ (32#32).toNat ∧ Opcode.ofCode (45#7).toNat = none := by decide

/-- DecoderUnitOutputs: a known code, an unknown code, and two inputs that differ past `dec_n` alone. -/
theorem witness_DecoderUnitOutputs :
    0x812C % 2 ^ (8 * min (2#3).toNat 6) % 2 ^ 7 = Opcode.loadConst.code ∧ (2#3) ≠ 0 ∧
    Opcode.ofCode (0x2D % 2 ^ (8 * min (7#3).toNat 6) % 2 ^ 7) = none ∧
    (0xFFFFFFFF812C#48).toNat % 2 ^ (8 * min (2#3).toNat 6) = (0x812C#48).toNat % 2 ^ (8 * min (2#3).toNat 6) := by
  decide

/-- LoadPadsLastRecord and LoadRejectsUnknownCode: one whole record, then a partial one (L4) or an unknown code (L5). -/
theorem witness_LoadPadsLastRecord :
    List.Forall₂ IsRecordOf [[0xAC, 0x50, 0, 0, 0]] [.loadConst 1 5] ∧
    decode ([0x2C, 0x81] ++ List.replicate 6 0) = .ok (.loadConst 2 8, 5) ∧ ([0x2C, 0x81] : List Byte).length < 5 :=
  ⟨.cons rfl .nil, rfl, by decide⟩

theorem witness_LoadRejectsUnknownCode :
    List.Forall₂ IsRecordOf [[0xAC, 0x50, 0, 0, 0]] [.loadConst 1 5] ∧ codeOf 0x00 ∉ [44, 120, 34, 37] :=
  ⟨.cons rfl .nil, by decide⟩

theorem witness_LoadReplacesProgram : load State.reset.params.progCap [0x25] = .ok [.shiftRight 0 0] := rfl

/-- A program store of three instructions. -/
def smallStore : State := State.construct { memSize := 65536, wordBits := 32, progCap := some 3 }

theorem witness_LoadBeyondCapacityFails :
    smallStore.params.progCap = some 3 ∧ State.reset.params.progCap = none ∧
    load none [0x78, 0, 0, 0x78, 0, 0, 0x78, 0, 0, 0x78, 0, 0] =
      .ok [.readMem 0 0, .readMem 0 0, .readMem 0 0, .readMem 0 0] := ⟨rfl, rfl, rfl⟩

/-- The clause of LoadBeyondCapacityFails where the LOAD succeeds, at a program of exactly `PROG_CAP` instructions. -/
theorem witness_LoadAtCapacity :
    smallStore.params.progCap = some 3 ∧ ([.readMem 0 0, .readMem 0 0, .readMem 0 0] : List Instr).length = 3 ∧
    load none [0x78, 0, 0, 0x78, 0, 0, 0x78, 0, 0] = .ok [.readMem 0 0, .readMem 0 0, .readMem 0 0] := ⟨rfl, rfl, rfl⟩

/-- The LOAD command's clause of LoadRejectsUnknownCode in a bounded store: two records before the unknown code leave
room for one more. -/
theorem witness_LoadRejectsUnknownCode_command :
    List.Forall₂ IsRecordOf [[0x78, 0, 0], [0x78, 0, 0]] [.readMem 0 0, .readMem 0 0] ∧
    ∀ cap, smallStore.params.progCap = some cap → ([.readMem 0 0, .readMem 0 0] : List Instr).length < cap :=
  ⟨.cons rfl (.cons rfl .nil), by rintro _ ⟨⟩; decide⟩

theorem witness_LoadLengthBound : load none [0x78, 0, 0, 0x78] = .ok [.readMem 0 0, .readMem 0 0] := rfl

/-- ReadMemReadsOrFaults, WriteMemWritesOrFaults, AliasedOperands, FaultsByInstruction: the two sides of the address
checks, the last valid address and the first invalid one, in a register. -/
theorem witness_address_in_register :
    (State.reset.setReg 0 65535).reg 0 < (State.reset.setReg 0 65535).params.memSize ∧
    State.reset.params.memSize ≤ (State.reset.setReg 0 65536).reg 0 ∧
    24 ≤ State.reset.params.wordBits := by decide

/-- ShiftRight's two sides. -/
theorem witness_ShiftRightShiftsOrFaults :
    65535 < State.reset.params.memSize ∧ State.reset.params.memSize ≤ 65536 ∧ 1073741823 < 2 ^ 30 := by decide

/-- R201 and R12 in an instance whose words are narrower than the address: FAULT_INFO is the whole address. -/
theorem test_shiftRight_faults_narrow :
    (stepState { State.construct { memSize := 65536, wordBits := 24, progCap := none } with
      program := [.shiftRight 0 1073741823] }).faultInfo = 1073741823 := by decide

/-- ShiftAmountIsNotMasked: SR4, an amount of exactly `WORD_BITS`. -/
theorem witness_ShiftAmountIsNotMasked :
    ((State.reset.setReg 0 0xFFFFFFFF).setMem 7 32).reg 0 < 2 ^ State.reset.params.wordBits ∧
    State.reset.params.wordBits ≤ ((State.reset.setReg 0 0xFFFFFFFF).setMem 7 32).mem.read 7 ∧
    7 < State.reset.params.memSize := by decide

theorem witness_LogicalShiftLaws : 4294967295 < 2 ^ 32 ∧ 32 ≤ 32 := by decide

/-- RegisterIndexChecked: the first index that does not exist and the last one that does. -/
theorem witness_RegisterIndexChecked : 32 ≤ 32 ∧ 31 < 32 ∧ Instr.wellFormed (.readMem 31 31) = true := by decide

/-- FaultEntry: SR9. -/
theorem witness_FaultEntry :
    (one (.shiftRight 0 65536)).faulted = false ∧
    (one (.shiftRight 0 65536)).program[(one (.shiftRight 0 65536)).pc]? = some (.shiftRight 0 65536) ∧
    executePhase (.shiftRight 0 65536) (one (.shiftRight 0 65536)) = .error (.mem 65536) := ⟨rfl, rfl, rfl⟩

/-- The frames: an instruction that completes and one that faults, of each shape. -/
theorem witness_frames :
    (∃ t, exec (.loadConst 1 5) State.reset = .next t) ∧ (∃ t, exec (.readMem 2 3) State.reset = .next t) ∧
    (∃ t, exec (.shiftRight 0 65536) State.reset = .next t) ∧ (∃ t, exec (.writeMem 3 2) State.reset = .next t) ∧
    ∃ t, exec (.writeMem 4 8) (State.reset.setReg 8 65536) = .next t :=
  ⟨⟨_, rfl⟩, ⟨_, rfl⟩, ⟨_, rfl⟩, ⟨_, rfl⟩, ⟨_, rfl⟩⟩

theorem witness_StepRunsInstructionAtPc :
    (one (.loadConst 1 5)).faulted = false ∧
    (one (.loadConst 1 5)).program[(one (.loadConst 1 5)).pc]? = some (.loadConst 1 5) := by decide

theorem witness_FetchedWordIsRun : decodeTableWord 24 0x3178 = some (.readMem 2 3) := by decide

/-- HaltedStepChangesNothing: `pc = PLEN`, and `pc > PLEN` as after Q10. -/
theorem witness_HaltedStepChangesNothing :
    State.reset.faulted = false ∧ State.reset.plen ≤ State.reset.pc ∧
    ({ one (.loadConst 1 5) with pc := 3 } : State).plen < ({ one (.loadConst 1 5) with pc := 3 } : State).pc := by decide

/-- A faulted core: SR9 after its step. -/
def faultedCore : State := stepState (one (.shiftRight 0 65536))

theorem witness_FaultedCoreIsStuck : faultedCore.faulted = true ∧ faultedCore.cause = .memOutOfBounds := by decide

theorem witness_PcAdvancesByOne :
    stepResult (one (.loadConst 1 5)) = .executed ∧ stepResult State.reset = .halted ∧
    stepResult (one (.shiftRight 0 65536)) = .fault .memOutOfBounds 65536 := by decide

theorem witness_PcStaysWithinProgram :
    State.reset.pc ≤ State.reset.plen ∧ (one (.loadConst 1 5)).pc < (one (.loadConst 1 5)).plen := by decide

/-- RunOutcome, RunTerminates and RunContinues: a one-instruction program, stopped by its end and by the limit. -/
theorem witness_RunOutcome :
    (one (.loadConst 1 5)).pc = 0 ∧ (one (.loadConst 1 5)).faulted = false ∧
    (runSteps 2 (one (.loadConst 1 5))).2 = (.halted, 1) ∧ (runSteps 1 (one (.loadConst 1 5))).2 = (.limit, 1) := by decide

/-- RunFaultIsPrecise: a RUN that faults at once, one that executes an instruction before the fault, and one of a core
already faulted. -/
theorem witness_RunFaultIsPrecise :
    (runSteps 2 { State.reset with program := [.loadConst 1 5, .shiftRight 0 65536] }).2 =
      (.fault .memOutOfBounds 65536, 1) ∧
    (runSteps 1 (one (.shiftRight 0 65536))).2 = (.fault .memOutOfBounds 65536, 0) ∧
    (runSteps 1 faultedCore).2 = (.fault .memOutOfBounds 65536, 0) := by decide

theorem witness_ErrorResponseKeepsState :
    (command (.regRead 32) State.reset).2 = .error (.outOfBounds (.reg 32)) := by decide

/-- RegReadResponse, RegWriteEffect and MemWriteEffect: the last valid and the first invalid index, address and value. -/
theorem witness_host_writes :
    31 < 32 ∧ 32 ≤ 32 ∧ 4294967295 < 2 ^ State.reset.params.wordBits ∧ 2 ^ State.reset.params.wordBits ≤ 4294967296 ∧
    65535 < State.reset.params.memSize ∧ State.reset.params.memSize ≤ 65536 := by decide

theorem witness_DumpCount :
    command (.dump 65535 65536) State.reset = (State.reset, .dumped [(65535, 0)]) ∧
    65535 ≤ State.reset.params.memSize ∧ State.reset.params.memSize ≤ 65536 := ⟨rfl, by decide, by decide⟩

/-- EncodeCommandChecks: a reference that resolves, one that does not, and operand lists of both kinds. -/
theorem witness_EncodeCommandChecks :
    (OpcodeRef.code 44).resolve = some .loadConst ∧ (OpcodeRef.code 45).resolve = none ∧
    (OpcodeRef.mnemonic "NOP").resolve = none ∧ ([1] : List Nat).length ≠ 2 ∧
    (Opcode.loadConst.instr 31 16777215).wellFormed = true ∧ (Opcode.loadConst.instr 31 16777216).wellFormed = false := by
  decide

theorem witness_DecodeCommandAnswers : decode [0x78] = .ok (.readMem 0 0, 3) ∧ decode [] = .error .empty := ⟨rfl, rfl⟩

theorem witness_LoadedProgramStartsAtFirst :
    (∀ j ∈ [Instr.loadConst 2 1000, .readMem 2 3], j.wellFormed = true) ∧ State.reset.params.progCap = none ∧
    State.reset.faulted = false ∧ State.reset.pc = 0 := by decide

/-- InvKeptByStep and InvKeptByCommand: a legal state with a program, from which a step executes. -/
theorem witness_Inv :
    (one (.loadConst 1 5)).Inv ∧ step (one (.loadConst 1 5)) = .next (stepState (one (.loadConst 1 5))) := by
  refine ⟨?_, step_eq_next _⟩
  unfold State.Inv State.RegsFit State.MemFits State.ProgramFits State.StatusFits
  decide

/-- InvAtConstruction: the least legal word width. -/
theorem witness_InvAtConstruction :
    Params.Legal { memSize := 0, wordBits := 24, progCap := some 0 } := by decide

/-- ValuesStayBelow24Bits and RunIndependentOfWordBits: values below `2 ^ 24`, a well-formed program, and two widths. -/
theorem witness_ValuesStayBelow24Bits :
    (∀ i ∈ (one (.loadConst 1 5)).program, i.wellFormed = true) ∧ (one (.loadConst 1 5)).Below24 ∧
    24 ≤ (one (.loadConst 1 5)).params.wordBits ∧ 24 ≤ 24 := by
  refine ⟨by decide, ⟨by decide, fun a => ?_⟩, by decide⟩
  exact Nat.two_pow_pos 24

end Sys2Proof.Tests
end

section
/-!
PROOFS. What each command can do to the state, said once, and the packaged induction over RUN.
-/

namespace Sys2Proof.Machine

/-- The state a RUN of at least one step leaves: it goes on only after a step that returned EXECUTED (R158). -/
theorem runSteps_succ_fst (k : Nat) (s : State) :
    (runSteps (k + 1) s).1 = if stepResult s = .executed then (runSteps k (stepState s)).1 else stepState s := by
  cases h : stepResult s <;> simp [runSteps, h]

/-- What every step keeps, every RUN keeps. -/
theorem runSteps_invariant {p : State → Prop} (hstep : ∀ s, p s → p (stepState s)) (k : Nat) (s : State) (hs : p s) :
    p (runSteps k s).1 := by
  induction k generalizing s with
  | zero => exact hs
  | succ k ih =>
    rw [runSteps_succ_fst]
    split
    · exact ih _ (hstep s hs)
    · exact hstep s hs

/-- LOAD leaves the state, or replaces the program store by what the loader accepted (R125, R126). -/
theorem loadCommand_fst_cases (bin : List Byte) (s : State) :
    (loadCommand bin s).1 = s ∨
    ∃ prog, load s.params.progCap bin = .ok prog ∧ (loadCommand bin s).1 = { s with program := prog } := by
  cases h : load s.params.progCap bin with
  | error e => simp [loadCommand, h]
  | ok prog => simp [loadCommand, h]

/-- REG_WRITE leaves the state, or writes a register that exists with a value that fits it (R237). -/
theorem regWriteCommand_fst_cases (i v : Nat) (s : State) :
    (regWriteCommand i v s).1 = s ∨
    i < 32 ∧ v < 2 ^ s.params.wordBits ∧ (regWriteCommand i v s).1 = s.setReg i v := by
  by_cases hi : 32 ≤ i
  · simp [regWriteCommand, State.checkReg_eq, hi]
  · by_cases hv : 2 ^ s.params.wordBits ≤ v
    · simp [regWriteCommand, State.checkReg_eq, hi, hv]
    · exact .inr ⟨by omega, by omega, by simp [regWriteCommand, State.checkReg_eq, hi, hv]⟩

/-- MEM_WRITE leaves the state, or writes a word of memory with a value that fits it (R238). -/
theorem memWriteCommand_fst_cases (a v : Nat) (s : State) :
    (memWriteCommand a v s).1 = s ∨
    a < s.params.memSize ∧ v < 2 ^ s.params.wordBits ∧ (memWriteCommand a v s).1 = s.setMem a v := by
  by_cases ha : s.params.memSize ≤ a
  · simp [memWriteCommand, State.checkMem_eq, ha]
  · by_cases hv : 2 ^ s.params.wordBits ≤ v
    · simp [memWriteCommand, State.checkMem_eq, ha, hv]
    · exact .inr ⟨by omega, by omega, by simp [memWriteCommand, State.checkMem_eq, ha, hv]⟩

/-- Everything a command can do to the state: nothing, or what RESET, STEP, RUN, or a LOAD, REG_WRITE or MEM_WRITE that
passes its checks does (R220). -/
theorem command_fst_cases (c : Command) (s : State) :
    (command c s).1 = s ∨
    (c = .reset ∧ (command c s).1 = s.resetCore) ∨
    (c = .step ∧ (command c s).1 = stepState s) ∨
    (∃ k, c = .run k ∧ (command c s).1 = (runSteps k s).1) ∨
    (∃ bin prog, c = .load bin ∧ load s.params.progCap bin = .ok prog ∧
      (command c s).1 = { s with program := prog }) ∨
    (∃ i v, c = .regWrite i v ∧ i < 32 ∧ v < 2 ^ s.params.wordBits ∧ (command c s).1 = s.setReg i v) ∨
    (∃ a v, c = .memWrite a v ∧ a < s.params.memSize ∧ v < 2 ^ s.params.wordBits ∧
      (command c s).1 = s.setMem a v) := by
  cases c with
  | reset => exact .inr (.inl ⟨rfl, rfl⟩)
  | step => exact .inr (.inr (.inl ⟨rfl, rfl⟩))
  | run k => exact .inr (.inr (.inr (.inl ⟨k, rfl, rfl⟩)))
  | load bin =>
    obtain h | ⟨prog, hload, h⟩ := loadCommand_fst_cases bin s
    · exact .inl h
    · exact .inr (.inr (.inr (.inr (.inl ⟨bin, prog, rfl, hload, h⟩))))
  | regWrite i v =>
    obtain h | ⟨hi, hv, h⟩ := regWriteCommand_fst_cases i v s
    · exact .inl h
    · exact .inr (.inr (.inr (.inr (.inr (.inl ⟨i, v, rfl, hi, hv, h⟩)))))
  | memWrite a v =>
    obtain h | ⟨ha, hv, h⟩ := memWriteCommand_fst_cases a v s
    · exact .inl h
    · exact .inr (.inr (.inr (.inr (.inr (.inr ⟨a, v, rfl, ha, hv, h⟩)))))
  | dump | encode | decode | statusRead | pcRead | regRead => exact .inl rfl

end Sys2Proof.Machine
end

section
/-!
PROOFS. The parameters of an instance are fixed for its life (R10, R11).
-/

namespace Sys2Proof.Machine

@[simp] theorem stepState_params (s : State) : (stepState s).params = s.params := by
  obtain ⟨-, h, -⟩ | ⟨-, -, h, -⟩ | ⟨i, w, -, -, -, h, -⟩ | ⟨i, e, -, -, -, h, -⟩ := stepState_cases s <;> simp [h]

@[simp] theorem runSteps_params (k : Nat) (s : State) : (runSteps k s).1.params = s.params :=
  runSteps_invariant (p := fun t => t.params = s.params) (fun t ht => (stepState_params t).trans ht) k s rfl

@[simp] theorem command_params (c : Command) (s : State) : (command c s).1.params = s.params := by
  obtain h | ⟨-, h⟩ | ⟨-, h⟩ | ⟨k, -, h⟩ | ⟨bin, prog, -, -, h⟩ | ⟨i, v, -, -, -, h⟩ | ⟨a, v, -, -, -, h⟩ :=
    command_fst_cases c s <;> simp [h]

/-- Settles O47: no command writes the parameters, the memory size among them. -/
theorem parametersAreFixed : Obligations.ParametersAreFixed := by
  unfold Obligations.ParametersAreFixed
  exact ⟨State.construct_params, fun c s => ⟨congrArg Params.memSize (command_params c s), command_params c s⟩⟩

end Sys2Proof.Machine
end

section
/-!
PROOFS. Who writes the program store (R42): a LOAD that succeeds, and nothing else; and the execute phase does not read it.
-/

namespace Sys2Proof.Machine

/-- No instruction reads the program store: its execute phase reads registers, memory and the parameters. -/
@[simp] theorem executePhase_with_program (i : Instr) (s : State) (p : List Instr) :
    executePhase i { s with program := p } = executePhase i s := by
  cases i <;> rfl

@[simp] theorem stepState_program (s : State) : (stepState s).program = s.program := by
  obtain ⟨-, h, -⟩ | ⟨-, -, h, -⟩ | ⟨i, w, -, -, -, h, -⟩ | ⟨i, e, -, -, -, h, -⟩ := stepState_cases s <;> simp [h]

@[simp] theorem runSteps_program (k : Nat) (s : State) : (runSteps k s).1.program = s.program :=
  runSteps_invariant (p := fun t => t.program = s.program) (fun t ht => (stepState_program t).trans ht) k s rfl

/-- A LOAD that succeeds replaces the program store, and answers its new length (R125, R224). -/
theorem command_load_of_ok {s : State} {bin : List Byte} {prog : List Instr}
    (h : load s.params.progCap bin = .ok prog) :
    command (.load bin) s = ({ s with program := prog }, .loaded prog.length) := by
  simp [command, loadCommand, h]

/-- A LOAD that fails changes nothing (R126, R224). -/
theorem command_load_of_error {s : State} {bin : List Byte} {e : LoadError}
    (h : load s.params.progCap bin = .error e) : command (.load bin) s = (s, .error (.load e)) := by
  simp [command, loadCommand, h]

/-- Every command but LOAD keeps the program store. -/
theorem command_program_of_ne_load {c : Command} (hc : ∀ bin, c ≠ .load bin) (s : State) :
    (command c s).1.program = s.program := by
  obtain h | ⟨-, h⟩ | ⟨-, h⟩ | ⟨k, -, h⟩ | ⟨bin, prog, hload, -, -⟩ | ⟨i, v, -, -, -, h⟩ | ⟨a, v, -, -, -, h⟩ :=
    command_fst_cases c s
  case inr.inr.inr.inr.inl => exact absurd hload (hc bin)
  all_goals simp [h]

/-- Settles O46: a step reads the store by its fetch alone, and of the commands only a LOAD that the loader accepts
writes it. -/
theorem onlyLoadWritesProgram : Obligations.OnlyLoadWritesProgram := by
  unfold Obligations.OnlyLoadWritesProgram
  refine ⟨executePhase_with_program, fun c s => ⟨fun hc => command_program_of_ne_load hc s, fun bin => ?_⟩⟩
  cases h : load s.params.progCap bin with
  | error e => exact .inl ⟨.load e, command_load_of_error h⟩
  | ok prog => exact .inr ⟨prog, rfl, congrArg (fun r => r.1.program) (command_load_of_ok h)⟩

end Sys2Proof.Machine
end

section
/-!
PROOFS. What DUMP reads out (R90).
-/

namespace Sys2Proof.Machine

/-- The pair at place `k` is that of the address `first + k`, and there is one exactly while that address is neither past
`last` nor past the end of memory (R90). -/
theorem dumpRange_getElem? (s : State) (first last k : Nat) :
    (s.dumpRange first last)[k]? =
      if first + k ≤ last ∧ first + k < s.params.memSize then some (first + k, s.mem.read (first + k)) else none := by
  have place_iff : k < min (last + 1) s.params.memSize - first ↔ first + k ≤ last ∧ first + k < s.params.memSize := by
    omega
  unfold State.dumpRange
  rw [List.getElem?_map]
  split
  case isTrue h => simp [List.getElem?_range' (place_iff.mpr h)]
  case isFalse h =>
    have past_end : (List.range' first (min (last + 1) s.params.memSize - first)).length ≤ k := by
      simpa using mt place_iff.mp h
    rw [List.getElem?_eq_none past_end, Option.map_none]

/-- Settles O51: DUMP answers the range it reads, place by place, and leaves the state. -/
theorem dumpAnswersPairs : Obligations.DumpAnswersPairs := by
  unfold Obligations.DumpAnswersPairs
  exact fun s first last => ⟨s.dumpRange first last, rfl, dumpRange_getElem? s first last⟩

end Sys2Proof.Machine
end

section
/-!
PROOFS. The packed value of an instruction (R102, R105), and the decoder as a function of its input's number: the one law
that the padding, the cutting and the masking of R116 and R117, and the round trip of R130, are read off from.
-/

namespace Sys2Proof

/-! ### The descriptor table, and an instruction by its opcode and fields -/

theorem Opcode.code_lt (op : Opcode) : op.code < 2 ^ 7 := by cases op <;> decide

theorem Opcode.code_pos (op : Opcode) : 0 < op.code := by cases op <;> decide

/-- All used bits lie in the record, with at least one bit to spare (R103, R105). -/
theorem Opcode.aBits_lt_recordBits (op : Opcode) : 12 + op.aBits < 8 * op.recordBytes := by cases op <;> decide

theorem Opcode.recordBytes_le (op : Opcode) : op.recordBytes ≤ 6 := by cases op <;> decide

theorem Opcode.aBits_le (op : Opcode) : op.aBits ≤ 30 := by cases op <;> decide

/-- The assigned codes are those of the descriptor table (R103). -/
theorem mem_codes_iff (c : Nat) : c ∈ [44, 120, 34, 37] ↔ ∃ op : Opcode, op.code = c := by
  constructor
  · intro h
    simp only [List.mem_cons, List.not_mem_nil, or_false] at h
    obtain rfl | rfl | rfl | rfl := h
    · exact ⟨.loadConst, rfl⟩
    · exact ⟨.readMem, rfl⟩
    · exact ⟨.writeMem, rfl⟩
    · exact ⟨.shiftRight, rfl⟩
  · rintro ⟨op, rfl⟩
    cases op <;> decide

/-- A code that is no opcode's selects none (R133). -/
theorem Opcode.ofCode_eq_none {c : Nat} (h : ∀ op : Opcode, op.code ≠ c) : Opcode.ofCode c = none := by
  cases hc : Opcode.ofCode c with
  | none => rfl
  | some op => exact absurd (Opcode.code_of_ofCode c op hc) (h op)

@[simp] theorem Opcode.instr_opcode (op : Opcode) (b a : Nat) : (op.instr b a).opcode = op := by cases op <;> rfl
@[simp] theorem Opcode.instr_fieldB (op : Opcode) (b a : Nat) : (op.instr b a).fieldB = b := by cases op <;> rfl
@[simp] theorem Opcode.instr_fieldA (op : Opcode) (b a : Nat) : (op.instr b a).fieldA = a := by cases op <;> rfl

theorem Laws.Fields.of_instr (i : Instr) : Laws.Fields.Statement i := by
  cases i with
  | loadConst reg const => exact Laws.Fields.loadConst reg const
  | readMem srcReg dstReg => exact Laws.Fields.readMem srcReg dstReg
  | writeMem srcReg addrReg => exact Laws.Fields.writeMem srcReg addrReg
  | shiftRight reg memAddr => exact Laws.Fields.shiftRight reg memAddr

/-- An instruction is its opcode with its two fields (R102). -/
@[simp] theorem Instr.opcode_instr (i : Instr) : i.opcode.instr i.fieldB i.fieldA = i := (Laws.Fields.of_instr i).1

/-- Well-formedness by the widths of the two fields (R101, R103). -/
theorem Instr.wellFormed_iff (i : Instr) : i.wellFormed = true ↔ i.fieldB < 2 ^ 5 ∧ i.fieldA < 2 ^ i.opcode.aBits :=
  (Laws.Fields.of_instr i).2

/-! ### The packed value -/

/-- The packing by OR is a sum, since B and C lie below the fields above them (R105). -/
theorem packed_eq_sum {i : Instr} (hB : i.fieldB < 2 ^ 5) :
    packed i = 2 ^ 12 * i.fieldA + 2 ^ 7 * i.fieldB + i.opcode.code := by
  have hC := i.opcode.code_lt
  have hBC : (i.fieldB <<< 7) ||| i.opcode.code = 2 ^ 7 * i.fieldB + i.opcode.code := by
    rw [← Nat.shiftLeft_add_eq_or_of_lt hC, Nat.shiftLeft_eq, Nat.mul_comm]
  rw [packed, Nat.or_assoc, hBC, ← Nat.shiftLeft_add_eq_or_of_lt (by omega), Nat.shiftLeft_eq]
  omega

/-- The packed value fits its three fields (R105). -/
theorem packed_lt {i : Instr} (hB : i.fieldB < 2 ^ 5) (hA : i.fieldA < 2 ^ i.opcode.aBits) :
    packed i < 2 ^ (12 + i.opcode.aBits) := by
  have hC := i.opcode.code_lt
  rw [packed_eq_sum hB, Nat.pow_add]
  omega

/-- Settles O3: each field lies below the next one, so the OR is the sum. -/
theorem packedFieldsDoNotOverlap : Obligations.PackedFieldsDoNotOverlap := by
  unfold Obligations.PackedFieldsDoNotOverlap
  intro i hi
  obtain ⟨hB, hA⟩ := i.wellFormed_iff.mp hi
  exact ⟨rfl, i.opcode.code_lt, hB, hA, packed_eq_sum hB, packed_lt hB hA⟩

/-! ### The decoder by its input's number -/

/-- Zero bytes at the high end of a string do not change its number. -/
@[simp] theorem leValue_append_zeros (b : List Byte) (n : Nat) : leValue (b ++ List.replicate n 0#8) = leValue b := by
  rw [leValue_append, leValue_replicate_zero, Nat.mul_zero, Nat.add_zero]

/-- A field reads no bit above its own. -/
theorem bits_mod_two_pow {n hi : Nat} (v lo : Nat) (h : hi < n) : bits (v % 2 ^ n) hi lo = bits v hi lo := by
  apply Nat.eq_of_testBit_eq
  intro k
  simp only [bits, Nat.testBit_mod_two_pow, Nat.testBit_shiftRight]
  by_cases hk : k < hi + 1 - lo
  · simp [hk, show lo + k < n by omega]
  · simp [hk]

/-- The decoder's field cut, as a function of the number of the whole input: bytes past the record are no part of its
fields, and a byte that is missing counts as 0 (R116, R117). -/
theorem decodeFields_eq (op : Opcode) (b : List Byte) :
    decodeFields op b = op.instr (bits (leValue b) 11 7) (bits (leValue b) (11 + op.aBits) 12) := by
  have hw := op.aBits_lt_recordBits
  rw [decodeFields, leValue_fitRecord, bits_mod_two_pow _ _ (by omega), bits_mod_two_pow _ _ (by omega),
    show 12 + op.aBits - 1 = 11 + op.aBits by omega]

/-- What the decoder answers where the low 7 bits of its input's number are an opcode's code (R114). -/
theorem decode_of_code {op : Opcode} {b : List Byte} (h : leValue b % 2 ^ 7 = op.code) :
    decode b = .ok (op.instr (bits (leValue b) 11 7) (bits (leValue b) (11 + op.aBits) 12), op.recordBytes) := by
  cases b with
  | nil => exact absurd h op.code_pos.ne
  | cons x rest =>
    have hcode : codeOf x = op.code := (codeOf_head x rest).trans h
    rw [decode_of_ofCode x rest op (hcode ▸ op.ofCode_code), decodeFields_eq]

/-- What the decoder answers where the low 7 bits of its input's number are no opcode's code (R115). -/
theorem decode_of_no_code {b : List Byte} (hb : b ≠ []) (h : ∀ op : Opcode, op.code ≠ leValue b % 2 ^ 7) :
    decode b = .error (.unknownOpcode (leValue b % 2 ^ 7)) := by
  cases b with
  | nil => exact absurd rfl hb
  | cons x rest =>
    have hcode : codeOf x = leValue (x :: rest) % 2 ^ 7 := codeOf_head x rest
    rw [← hcode] at h ⊢
    exact decode_of_ofCode_none x rest (Opcode.ofCode_eq_none h)

/-- The decoder reads nothing above field A: inputs that agree up to there decode alike (R116, R117). -/
theorem decode_congr {op : Opcode} {b b' : List Byte} (hop : leValue b % 2 ^ 7 = op.code)
    (h : leValue b' % 2 ^ (12 + op.aBits) = leValue b % 2 ^ (12 + op.aBits)) : decode b' = decode b := by
  have hop' : leValue b' % 2 ^ 7 = op.code := by
    rw [← hop, ← Nat.mod_mod_of_dvd (leValue b') (pow_dvd_pow 2 (show 7 ≤ 12 + op.aBits by omega)), h,
      Nat.mod_mod_of_dvd _ (pow_dvd_pow 2 (by omega))]
  have hfield (hi lo : Nat) (hhi : hi < 12 + op.aBits) : bits (leValue b') hi lo = bits (leValue b) hi lo := by
    rw [← bits_mod_two_pow (leValue b') lo hhi, h, bits_mod_two_pow _ lo hhi]
  rw [decode_of_code hop', decode_of_code hop, hfield 11 7 (by omega), hfield (11 + op.aBits) 12 (by omega)]

/-! ### The round trip -/

/-- The record of a well-formed instruction has the packed value as its number: the record is wide enough (R106). -/
theorem leValue_encode {i : Instr} (hi : i.wellFormed = true) : leValue (encode i) = packed i := by
  obtain ⟨hB, hA⟩ := i.wellFormed_iff.mp hi
  rw [encode, leValue_leBytes, Nat.mod_eq_of_lt]
  exact (packed_lt hB hA).trans (Nat.pow_lt_pow_right (by decide) i.opcode.aBits_lt_recordBits)

/-- Settles O2: the record's number is the packed value, a sum of fields that the decoder's cuts take apart again. -/
theorem decodeOfEncode : Obligations.DecodeOfEncode := by
  unfold Obligations.DecodeOfEncode
  intro i hi
  obtain ⟨hB, hA⟩ := i.wellFormed_iff.mp hi
  have hC := i.opcode.code_lt
  have hsum := packed_eq_sum hB
  have hcode : packed i % 2 ^ 7 = i.opcode.code := by omega
  have hfieldB : bits (packed i) 11 7 = i.fieldB := by rw [bits_eq]; omega
  have hfieldA : bits (packed i) (11 + i.opcode.aBits) 12 = i.fieldA := by
    have hdiv : packed i / 2 ^ 12 = i.fieldA := by omega
    rw [bits_eq, hdiv, show 11 + i.opcode.aBits + 1 - 12 = i.opcode.aBits by omega, Nat.mod_eq_of_lt hA]
  rw [← leValue_encode hi] at hcode hfieldB hfieldA
  rw [decode_of_code hcode, hfieldB, hfieldA, Instr.opcode_instr]

@[simp] theorem encode_length (i : Instr) : (encode i).length = i.opcode.recordBytes := leBytes_length _ _

/-- Settles O5: the record has its opcode's width, which the descriptor table gives. -/
theorem encodeHasRecordWidth : Obligations.EncodeHasRecordWidth := by
  unfold Obligations.EncodeHasRecordWidth
  exact fun b a => ⟨encode_length (.loadConst b a), encode_length (.readMem b a), encode_length (.writeMem b a),
    encode_length (.shiftRight b a)⟩

/-! ### Errors, padding and masking -/

/-- Settles O6: the first byte's code alone decides between an instruction and the second error. -/
theorem decodeErrorCases : Obligations.DecodeErrorCases := by
  unfold Obligations.DecodeErrorCases
  refine ⟨rfl, rfl, fun _ => rfl, fun b rest => ⟨fun h => ?_, fun h => ?_⟩⟩
  · rw [mem_codes_iff, not_exists] at h
    exact decode_of_ofCode_none b rest (Opcode.ofCode_eq_none h)
  · obtain ⟨op, hop⟩ := (mem_codes_iff _).mp h
    exact ⟨_, _, decode_of_ofCode b rest op (hop ▸ op.ofCode_code)⟩

/-- Settles O7: padding keeps the input's number, and cutting keeps its bits up to field A. -/
theorem decodePadsAndCuts : Obligations.DecodePadsAndCuts := by
  unfold Obligations.DecodePadsAndCuts
  intro op b rest hb
  have hop : leValue (b :: rest) % 2 ^ 7 = op.code := (codeOf_head b rest).symm.trans hb
  have hused : 2 ^ (12 + op.aBits) ∣ 2 ^ (8 * op.recordBytes) := pow_dvd_pow 2 op.aBits_lt_recordBits.le
  refine ⟨fun _ => (decode_congr hop ?_).symm, fun _ => (decode_congr hop ?_).symm, _, decode_of_code hop⟩
  · exact congrArg (· % _) (leValue_append_zeros (b :: rest) _)
  · rw [leValue_take, Nat.mod_mod_of_dvd _ hused]

/-- Settles O8: the fields are cuts of the input's number to their widths, so they fit, and no bit above them counts. -/
theorem decodeMasksFields : Obligations.DecodeMasksFields := by
  unfold Obligations.DecodeMasksFields
  intro op b _ hop
  have hA := bits_lt (leValue b) (11 + op.aBits) 12
  rw [show 11 + op.aBits + 1 - 12 = op.aBits by omega] at hA
  refine ⟨_, decode_of_code hop, Opcode.instr_opcode .., Opcode.instr_fieldB .., Opcode.instr_fieldA .., ?_,
    fun b' _ h => decode_congr hop h⟩
  rw [Instr.wellFormed_iff, Opcode.instr_opcode, Opcode.instr_fieldB, Opcode.instr_fieldA]
  exact ⟨bits_lt (leValue b) 11 7, hA⟩

end Sys2Proof
end

section
/-!
PROOFS. The encoder and the decoder as combinational units (R112, R118).
-/

namespace Sys2Proof

/-- The bytes of a string's number, up to a length that holds the string: the string, then zeros. -/
theorem leBytes_leValue_of_le {n : Nat} {b : List Byte} (h : b.length ≤ n) :
    leBytes n (leValue b) = b ++ List.replicate (n - b.length) 0#8 := by
  have hpad := leBytes_leValue (b ++ List.replicate (n - b.length) 0#8)
  rwa [leValue_append_zeros, List.length_append, List.length_replicate, Nat.add_sub_cancel' h] at hpad

/-- The lowest `n` bytes of a number depend on its lowest `8 n` bits alone. -/
theorem leBytes_mod (n v : Nat) : leBytes n (v % 2 ^ (8 * n)) = leBytes n v := by
  have h := leBytes_leValue (leBytes n v)
  rwa [leBytes_length, leValue_leBytes] at h

/-- An instruction put together from an opcode and two fields is well-formed when both fit (R101, R103). -/
theorem Opcode.instr_wellFormed_iff (op : Opcode) (b a : Nat) :
    (op.instr b a).wellFormed = true ↔ b < 2 ^ 5 ∧ a < 2 ^ op.aBits := by
  rw [Instr.wellFormed_iff, instr_opcode, instr_fieldB, instr_fieldA]

namespace Machine

/-- The encoder unit on an input that makes a well-formed instruction. -/
theorem encoderPorts_of_wellFormed {code : BitVec 7} {b : BitVec 8} {a : BitVec 32} {op : Opcode}
    (hop : code.toNat = op.code) (hi : (op.instr b.toNat a.toNat).wellFormed = true) :
    encoderPorts code b a =
      { bytes := BitVec.ofNat 48 (leValue (encode (op.instr b.toNat a.toNat))), len := BitVec.ofNat 3 op.recordBytes,
        err := 0 } := by
  simp [encoderPorts, hop, hi]

/-- The encoder unit on an input that makes none. -/
theorem encoderPorts_of_refused {code : BitVec 7} {b : BitVec 8} {a : BitVec 32}
    (h : ∀ op : Opcode, code.toNat = op.code → (op.instr b.toNat a.toNat).wellFormed = false) :
    encoderPorts code b a = { bytes := 0, len := 0, err := 5 } := by
  unfold encoderPorts
  cases hop : Opcode.ofCode code.toNat with
  | none => rfl
  | some op =>
    simp only [h op (Opcode.code_of_ofCode _ op hop).symm]
    rfl

/-- The 48 output bits hold every record, zeros above it (R112). -/
theorem leBytes_encBytes (i : Instr) :
    leBytes 6 (BitVec.ofNat 48 (leValue (encode i))).toNat =
      encode i ++ List.replicate (6 - i.opcode.recordBytes) 0#8 := by
  have hlen : (encode i).length ≤ 6 := (encode_length i).trans_le i.opcode.recordBytes_le
  rw [BitVec.toNat_ofNat, leBytes_mod 6, leBytes_leValue_of_le hlen, encode_length]

theorem toNat_ofNat_recordBytes (op : Opcode) : (BitVec.ofNat 3 op.recordBytes).toNat = op.recordBytes := by
  cases op <;> rfl

/-- Settles O10: the unit accepts exactly the codes of opcodes with fields that make a well-formed instruction. -/
theorem encoderUnitOutputs : Obligations.EncoderUnitOutputs := by
  unfold Obligations.EncoderUnitOutputs
  refine fun code b a => ⟨fun op hop hb ha => ?_, fun h => encoderPorts_of_refused fun op hop => ?_⟩
  · rw [encoderPorts_of_wellFormed hop ((op.instr_wellFormed_iff _ _).mpr ⟨hb, ha⟩)]
    have hbytes := leBytes_encBytes (op.instr b.toNat a.toNat)
    rw [Opcode.instr_opcode] at hbytes
    exact ⟨rfl, toNat_ofNat_recordBytes op, hbytes⟩
  · have hout := h op hop
    rw [Bool.eq_false_iff, ne_eq, Opcode.instr_wellFormed_iff]
    omega

/-- The decoder unit's outputs depend on the valid bytes alone (R118). -/
theorem decoderPorts_congr {bytes bytes' : BitVec 48} {n n' : BitVec 3}
    (h : validBytes bytes n = validBytes bytes' n') : decoderPorts bytes n = decoderPorts bytes' n' := by
  simp only [decoderPorts, h]

/-- The number of the valid bytes: the input with the bytes from `dec_n` on taken as 0 (R118). -/
theorem leValue_validBytes (bytes : BitVec 48) (n : BitVec 3) :
    leValue (validBytes bytes n) = bytes.toNat % 2 ^ (8 * min n.toNat 6) := leValue_leBytes _ _

theorem validBytes_ne_nil {n : BitVec 3} (bytes : BitVec 48) (hn : n ≠ 0) : validBytes bytes n ≠ [] := by
  rw [ne_eq, ← List.length_eq_zero_iff, validBytes, leBytes_length]
  bv_omega

/-- The decoder unit on valid bytes that start with the code of `op`. -/
theorem decoderPorts_of_code {bytes : BitVec 48} {n : BitVec 3} {op : Opcode} {v : Nat}
    (hv : leValue (validBytes bytes n) = v) (hop : v % 2 ^ 7 = op.code) :
    decoderPorts bytes n =
      { err := 0, code := BitVec.ofNat 7 op.code, b := BitVec.ofNat 5 (bits v 11 7),
        a := BitVec.ofNat 30 (bits v (11 + op.aBits) 12), len := BitVec.ofNat 3 op.recordBytes } := by
  subst hv
  simp [decoderPorts, decode_of_code hop]

/-- The decoder unit on valid bytes that start with no opcode's code. -/
theorem decoderPorts_of_no_code {bytes : BitVec 48} {n : BitVec 3} {v : Nat} (hn : n ≠ 0)
    (hv : leValue (validBytes bytes n) = v) (hop : ∀ op : Opcode, op.code ≠ v % 2 ^ 7) :
    decoderPorts bytes n =
      { err := 2, code := BitVec.ofNat 7 (v % 2 ^ 7), b := decBOnUnknown (validBytes bytes n), a := 0, len := 0 } := by
  subst hv
  simp only [decoderPorts, decode_of_no_code (validBytes_ne_nil bytes hn) hop]
  rfl

/-- Settles O11: the unit is the decoder on the valid bytes, whose number is `v`. -/
theorem decoderUnitOutputs : Obligations.DecoderUnitOutputs := by
  unfold Obligations.DecoderUnitOutputs
  intro bytes n v hv
  have hval : leValue (validBytes bytes n) = v := (leValue_validBytes bytes n).trans hv.symm
  refine ⟨?_, fun hn => ⟨?_, fun op hop => ?_, fun hop => ?_⟩, fun bytes' h => decoderPorts_congr ?_,
    decoderPorts_congr rfl⟩
  · rintro rfl
    rfl
  · have hlow : v % 2 ^ 7 = bytes.toNat % 2 ^ 7 := by
      rw [hv, Nat.mod_mod_of_dvd _ (pow_dvd_pow 2 _)]
      bv_omega
    by_cases hop : ∃ op : Opcode, op.code = v % 2 ^ 7
    · obtain ⟨op, hop⟩ := hop
      rw [decoderPorts_of_code hval hop.symm, hop, BitVec.toNat_ofNat, Nat.mod_mod, hlow]
    · rw [decoderPorts_of_no_code hn hval (not_exists.mp hop), BitVec.toNat_ofNat, Nat.mod_mod, hlow]
  · have hA : bits v (11 + op.aBits) 12 < 2 ^ 30 := by
      refine (bits_lt v (11 + op.aBits) 12).trans_le (Nat.pow_le_pow_right (by decide) ?_)
      have := op.aBits_le
      omega
    rw [decoderPorts_of_code hval hop]
    exact ⟨rfl, Nat.mod_eq_of_lt (bits_lt v 11 7), Nat.mod_eq_of_lt hA, toNat_ofNat_recordBytes op⟩
  · rw [decoderPorts_of_no_code hn hval fun op => (hop op).symm]
    exact ⟨rfl, rfl, rfl⟩
  · rw [validBytes, validBytes, ← leBytes_mod _ bytes'.toNat, h, hv, leBytes_mod]

end Machine

end Sys2Proof
end

section
/-!
PROOFS. The loader's scan (R120): what it does at each byte, over whole records (R121, R122), at the end of the image (R123),
at an unknown code (R124), and in a bounded program store (R128).
-/

namespace Sys2Proof

/-- A string that decodes starts with the code of an opcode, whose fields and record width are the decoder's answer. -/
theorem decode_cons_eq_ok {x : Byte} {xs : List Byte} {i : Instr} {n : Nat} (h : decode (x :: xs) = .ok (i, n)) :
    ∃ op, Opcode.ofCode (codeOf x) = some op ∧ decodeFields op (x :: xs) = i ∧ op.recordBytes = n := by
  cases hop : Opcode.ofCode (codeOf x) with
  | none => rw [decode_of_ofCode_none x xs hop] at h; cases h
  | some op =>
    rw [decode_of_ofCode x xs op hop] at h
    cases h
    exact ⟨op, rfl, rfl, rfl⟩

/-- Zeros after an input, which the decoder takes its missing bytes as, change no field (R116). -/
theorem decodeFields_append_zeros (op : Opcode) (b : List Byte) (n : Nat) :
    decodeFields op (b ++ List.replicate n 0#8) = decodeFields op b := by
  rw [decodeFields_eq, decodeFields_eq, leValue_append_zeros]

/-- Bytes after a whole record are no part of its fields. -/
theorem decodeFields_append {op : Opcode} {b : List Byte} (hb : op.recordBytes = b.length) (rest : List Byte) :
    decodeFields op (b ++ rest) = decodeFields op b := by
  rw [decodeFields, decodeFields, fitRecord_append _ b rest hb.symm, hb, fitRecord_of_length]

namespace Machine

theorem exceeds_of_le {cap : Option Nat} {m n : Nat} (hmn : m ≤ n) (h : exceeds cap n = false) :
    exceeds cap m = false := by
  cases cap with
  | none => rfl
  | some c =>
    simp only [exceeds, decide_eq_false_iff_not] at h ⊢
    omega

/-- The scan at a record start with no opcode's code (R124). -/
theorem loadScan_unknown (cap : Option Nat) {x : Byte} (xs : List Byte) (off count : Nat)
    (h : Opcode.ofCode (codeOf x) = none) :
    loadScan cap (x :: xs) 0 off count = .error (.unknownOpcode (codeOf x) off) := by
  simp [loadScan, h]

/-- The scan at a record start with an opcode's code: the capacity check, then the record's instruction before those of
the bytes after its first (R120, R128). -/
theorem loadScan_code (cap : Option Nat) {x : Byte} (xs : List Byte) (off count : Nat) {op : Opcode}
    (h : Opcode.ofCode (codeOf x) = some op) :
    loadScan cap (x :: xs) 0 off count =
      if exceeds cap (count + 1) then .error (.capacity (count + 1))
      else (loadScan cap xs (op.recordBytes - 1) (off + 1) (count + 1)).map (decodeFields op (x :: xs) :: ·) := by
  cases hr : loadScan cap xs (op.recordBytes - 1) (off + 1) (count + 1) <;> simp [loadScan, h, hr, Except.map]

/-- The scan over one whole record, in a store with room for it (R121). -/
theorem loadScan_isRecordOf {cap : Option Nat} {b : List Byte} {i : Instr} (hb : IsRecordOf b i) (rest : List Byte)
    (off : Nat) {count : Nat} (hcap : exceeds cap (count + 1) = false) :
    loadScan cap (b ++ rest) 0 off count =
      (loadScan cap rest 0 (off + b.length) (count + 1)).map (i :: ·) := by
  cases b with
  | nil => cases hb
  | cons x xs =>
    obtain ⟨op, hop, hi, hw⟩ := decode_cons_eq_ok hb
    have hskip : op.recordBytes - 1 = xs.length := by rw [hw, List.length_cons, Nat.add_sub_cancel]
    have hoff : off + 1 + min xs.length (xs ++ rest).length = off + (x :: xs).length := by
      simp
      omega
    rw [List.cons_append, loadScan_code cap _ off count hop, hcap, loadScan_skip, hskip, List.drop_left, hoff,
      ← List.cons_append, decodeFields_append hw, hi]
    rfl

/-- The scan over whole records, in a store with room for them: their instructions, then those of the bytes that follow
(R122). -/
theorem loadScan_records {cap : Option Nat} {rs : List (List Byte)} {prog : List Instr}
    (hrs : List.Forall₂ IsRecordOf rs prog) (rest : List Byte) (off count : Nat)
    (hcap : exceeds cap (count + prog.length) = false) :
    loadScan cap (rs.flatten ++ rest) 0 off count =
      (loadScan cap rest 0 (off + rs.flatten.length) (count + prog.length)).map (prog ++ ·) := by
  induction hrs generalizing off count with
  | nil => cases h : loadScan cap rest 0 off count <;> simp [h, Except.map]
  | @cons b i rs prog hb _ ih =>
    have hlen : count + (i :: prog).length = count + 1 + prog.length := by
      rw [List.length_cons]
      omega
    rw [hlen] at hcap ⊢
    rw [List.flatten_cons, List.append_assoc, loadScan_isRecordOf hb _ off (exceeds_of_le (by omega) hcap),
      ih _ _ hcap, List.length_append, ← Nat.add_assoc]
    cases loadScan cap rest 0 (off + b.length + rs.flatten.length) (count + 1 + prog.length) <;> rfl

/-- The scan over a last record that the image ends inside: one more instruction, the missing bytes taken as 0 (R123). -/
theorem loadScan_partial_record {tail : List Byte} {i : Instr} {n : Nat} (hne : tail ≠ [])
    (hdec : decode (tail ++ List.replicate 6 0) = .ok (i, n)) (hlen : tail.length < n) (off count : Nat) :
    loadScan none tail 0 off count = .ok [i] := by
  cases tail with
  | nil => exact absurd rfl hne
  | cons x xs =>
    obtain ⟨op, hop, hi, hw⟩ := decode_cons_eq_ok hdec
    have hfields : decodeFields op (x :: xs) = i := (decodeFields_append_zeros op (x :: xs) 6).symm.trans hi
    have hend : xs.drop (op.recordBytes - 1) = [] := by
      rw [List.length_cons] at hlen
      exact List.drop_eq_nil_of_le (by omega)
    rw [loadScan_code none xs off count hop, loadScan_skip, hend, hfields]
    rfl

/-- Settles O13: the whole records are scanned first, then the padded one. -/
theorem loadPadsLastRecord : Obligations.LoadPadsLastRecord := by
  unfold Obligations.LoadPadsLastRecord
  intro rs prog tail i n hrs hne hdec hlen
  rw [load, loadScan_records hrs tail 0 0 rfl, loadScan_partial_record hne hdec hlen]
  rfl

/-- Whole records, then an unknown code: the load fails there, in every store that the records do not overfill (R124). -/
theorem load_records_unknown {cap : Option Nat} {rs : List (List Byte)} {prog : List Instr} {b : Byte}
    (hrs : List.Forall₂ IsRecordOf rs prog) (hb : codeOf b ∉ [44, 120, 34, 37]) (rest : List Byte)
    (hcap : exceeds cap prog.length = false) :
    load cap (rs.flatten ++ b :: rest) = .error (.unknownOpcode (codeOf b) rs.flatten.length) := by
  have hnone : Opcode.ofCode (codeOf b) = none :=
    Opcode.ofCode_eq_none fun op hop => hb ((mem_codes_iff _).mpr ⟨op, hop⟩)
  rw [load, loadScan_records hrs _ 0 0 (by rwa [Nat.zero_add]), loadScan_unknown cap rest _ _ hnone, Nat.zero_add]
  rfl

/-- Settles O14: the scan stops at the unknown code, and a LOAD that fails changes nothing. -/
theorem loadRejectsUnknownCode : Obligations.LoadRejectsUnknownCode := by
  unfold Obligations.LoadRejectsUnknownCode
  refine fun rs prog b rest hrs hb => ⟨load_records_unknown hrs hb rest rfl, rfl, fun s hroom => ?_⟩
  have hcap : exceeds s.params.progCap prog.length = false := by
    cases hc : s.params.progCap with
    | none => rfl
    | some cap => simpa [exceeds] using (hroom cap hc).le
  exact command_load_of_error (load_records_unknown hrs hb rest hcap)

/-- Settles O15: the LOAD command's success, and the new length. -/
theorem loadReplacesProgram : Obligations.LoadReplacesProgram := by
  unfold Obligations.LoadReplacesProgram
  exact fun s bin prog h => ⟨_, command_load_of_ok h, rfl, rfl⟩

/-! ### The capacity -/

/-- The scan of a bounded store that has not overrun its capacity, against the scan without a bound that succeeds: the
same program if it fits, and else the capacity error at the first instruction too many (R128). -/
theorem loadScan_some_of_none {cap : Nat} {b : List Byte} {skip off count : Nat} {prog : List Instr}
    (h : loadScan none b skip off count = .ok prog) (hcount : count ≤ cap) :
    loadScan (some cap) b skip off count =
      if count + prog.length ≤ cap then .ok prog else .error (.capacity (cap + 1)) := by
  induction b generalizing skip off count prog with
  | nil =>
    cases h
    simp [loadScan, hcount]
  | cons x xs ih =>
    cases skip with
    | succ skip => exact ih h hcount
    | zero =>
      cases hop : Opcode.ofCode (codeOf x) with
      | none => rw [loadScan_unknown none xs off count hop] at h; cases h
      | some op =>
        rw [loadScan_code none xs off count hop] at h
        rw [loadScan_code (some cap) xs off count hop]
        cases hrest : loadScan none xs (op.recordBytes - 1) (off + 1) (count + 1) with
        | error e => rw [hrest] at h; cases h
        | ok prog' =>
          rw [hrest] at h
          cases h
          rw [List.length_cons]
          by_cases hfull : cap < count + 1
          · have hcap : count = cap := by omega
            simp [exceeds, hcap]
          · rw [ih hrest (by omega), show count + (prog'.length + 1) = count + 1 + prog'.length by omega]
            by_cases hfits : count + 1 + prog'.length ≤ cap <;> simp [exceeds, hfull, hfits, Except.map]

/-- A load into a bounded store, against the load without a bound that succeeds (R128). -/
theorem load_some_of_none {cap : Nat} {bin : List Byte} {prog : List Instr} (h : load none bin = .ok prog) :
    load (some cap) bin = if prog.length ≤ cap then .ok prog else .error (.capacity (cap + 1)) := by
  rw [load, loadScan_some_of_none h cap.zero_le, Nat.zero_add]

/-- The scan of an unbounded store raises no capacity error (R128). -/
theorem loadScan_none_ne_capacity (b : List Byte) (skip off count n : Nat) :
    loadScan none b skip off count ≠ .error (.capacity n) := by
  induction b generalizing skip off count with
  | nil => nofun
  | cons x xs ih =>
    cases skip with
    | succ skip => exact ih skip (off + 1) count
    | zero =>
      cases hop : Opcode.ofCode (codeOf x) with
      | none => simp [loadScan_unknown none xs off count hop]
      | some op =>
        rw [loadScan_code none xs off count hop]
        cases hrest : loadScan none xs (op.recordBytes - 1) (off + 1) (count + 1) with
        | ok prog => nofun
        | error e =>
          rintro ⟨⟩
          exact ih _ _ _ hrest

/-- Settles O16: a bounded store's scan is the unbounded one, cut off by the capacity error. -/
theorem loadBeyondCapacityFails : Obligations.LoadBeyondCapacityFails := by
  unfold Obligations.LoadBeyondCapacityFails
  refine ⟨fun s bin prog cap hcap h hlong => ⟨cap + 1, command_load_of_error ?_, rfl⟩,
    fun s bin prog cap hcap h hfits => command_load_of_ok ?_, fun s bin n hcap => ?_⟩
  · rw [hcap, load_some_of_none h, if_neg hlong.not_ge]
  · rw [hcap, load_some_of_none h, if_pos hfits]
  · cases h : load s.params.progCap bin with
    | ok prog => simp [command_load_of_ok h]
    | error e =>
      rw [command_load_of_error h]
      rintro ⟨⟩
      rw [hcap] at h
      exact loadScan_none_ne_capacity bin 0 0 0 n h

end Machine

end Sys2Proof
end

section
/-!
PROOFS. The sequencer: what a step leaves for each result it returns (R150, R151, R153, R157), and RUN as the repetition of
steps (R158, R160).
-/

namespace Sys2Proof.Machine

/-! ### One step -/

/-- A step of a faulted core reports the recorded fault and leaves the state (R157). -/
theorem step_of_faulted {s : State} (h : s.faulted = true) :
    stepState s = s ∧ stepResult s = .fault s.cause s.faultInfo := by
  simpa [h] using stepState_cases s

/-- A step of a halted core reports HALTED and leaves the state (R151). -/
theorem step_of_halted {s : State} (hf : s.faulted = false) (hpc : s.plen ≤ s.pc) :
    stepState s = s ∧ stepResult s = .halted := by
  simpa [hf, s.fetch_eq_none.mpr hpc] using stepState_cases s

/-- A step that returns FAULT leaves the state but for the status registers, which hold the fault it reports: the one it
took (R265), or the one already recorded (R157). -/
theorem stepState_of_fault {s : State} {c : Cause} {v : Nat} (h : stepResult s = .fault c v) :
    stepState s = { s with faulted := true, cause := c, faultInfo := v } := by
  obtain ⟨hf, hs, hr⟩ | ⟨-, -, -, hr⟩ | ⟨i, w, -, -, -, -, hr⟩ | ⟨i, e, -, -, -, hs, hr⟩ := stepState_cases s
  case inl =>
    obtain ⟨rfl, rfl⟩ := StepResult.fault.inj (hr.symm.trans h)
    rw [hs, ← hf]
  case inr.inr.inr =>
    obtain ⟨rfl, rfl⟩ := StepResult.fault.inj (hr.symm.trans h)
    exact hs
  all_goals simp [hr] at h

/-- The step moves `pc` on by one when it returns EXECUTED, and else leaves it (R153). -/
theorem stepState_pc (s : State) : (stepState s).pc = if stepResult s = .executed then s.pc + 1 else s.pc := by
  obtain ⟨-, hs, hr⟩ | ⟨-, -, hs, hr⟩ | ⟨i, w, -, -, -, hs, hr⟩ | ⟨i, e, -, -, -, hs, hr⟩ := stepState_cases s <;>
    simp [hs, hr]

/-- Settles O32: a halted core has nothing to fetch. -/
theorem haltedStepChangesNothing : Obligations.HaltedStepChangesNothing := by
  unfold Obligations.HaltedStepChangesNothing
  intro s hf hpc
  obtain ⟨hs, hr⟩ := step_of_halted hf hpc
  exact ⟨by rw [step_eq_next, hs], by rw [command, hs, hr]⟩

/-- The commands that run no instruction and do not reset the core keep `pc`. -/
theorem command_pc_of_host_access {c : Command} (hreset : c ≠ .reset) (hstep : c ≠ .step) (hrun : ∀ k, c ≠ .run k)
    (s : State) : (command c s).1.pc = s.pc := by
  obtain h | ⟨hc, -⟩ | ⟨hc, -⟩ | ⟨k, hc, -⟩ | ⟨bin, prog, -, -, h⟩ | ⟨i, v, -, -, -, h⟩ | ⟨a, v, -, -, -, h⟩ :=
    command_fst_cases c s
  case inr.inl => exact absurd hc hreset
  case inr.inr.inl => exact absurd hc hstep
  case inr.inr.inr.inl => exact absurd hc (hrun k)
  all_goals simp [h]

/-- Settles O34: the step commits a write, which advances `pc`, exactly when it returns EXECUTED. -/
theorem pcAdvancesByOne : Obligations.PcAdvancesByOne := by
  unfold Obligations.PcAdvancesByOne
  exact fun s => ⟨fun h => (stepState_pc s).trans (if_pos h), fun h => (stepState_pc s).trans (if_neg h),
    fun c hreset hstep hrun => command_pc_of_host_access hreset hstep hrun s⟩

/-! ### RUN -/

/-- RUN goes on after a step that executed, and counts it (R158). -/
theorem runSteps_succ_of_executed {s : State} (h : stepResult s = .executed) (k : Nat) :
    runSteps (k + 1) s =
      ((runSteps k (stepState s)).1, (runSteps k (stepState s)).2.1, (runSteps k (stepState s)).2.2 + 1) := by
  simp [runSteps, h]

/-- RUN stops at a step that returns HALTED (R158). -/
theorem runSteps_succ_of_halted {s : State} (h : stepResult s = .halted) (k : Nat) :
    runSteps (k + 1) s = (stepState s, .halted, 0) := by
  simp [runSteps, h]

/-- RUN stops at a step that returns FAULT, and reports its fault (R158, R160). -/
theorem runSteps_succ_of_fault {s : State} {c : Cause} {v : Nat} (h : stepResult s = .fault c v) (k : Nat) :
    runSteps (k + 1) s = (stepState s, .fault c v, 0) := by
  simp [runSteps, h]

/-- Settles O36: RUN by the result of its first step. -/
theorem runRepeatsStep : Obligations.RunRepeatsStep := by
  unfold Obligations.RunRepeatsStep
  refine fun s => ⟨fun m => rfl, rfl, fun k => ?_⟩
  rw [command]
  cases h : stepResult s with
  | executed => exact runSteps_succ_of_executed h k
  | halted => exact runSteps_succ_of_halted h k
  | fault c v => exact runSteps_succ_of_fault h k

/-- Settles O40, by induction on the steps RUN may attempt: its first step faults, and nothing was executed before it, or
the rest of the RUN faults. -/
theorem runFaultIsPrecise : Obligations.RunFaultIsPrecise := by
  unfold Obligations.RunFaultIsPrecise
  intro s t m n v c hrun
  induction m generalizing s n with
  | zero => cases hrun
  | succ k ih =>
    cases h : stepResult s with
    | executed =>
      obtain ⟨⟨t', why, n'⟩, hrest⟩ : ∃ r, runSteps k (stepState s) = r := ⟨_, rfl⟩
      rw [runSteps_succ_of_executed h, hrest] at hrun
      cases hrun
      obtain ⟨u, hu, hfault, ht⟩ := ih _ _ hrest
      exact ⟨u, by rw [runSteps_succ_of_executed h, hu], hfault, ht⟩
    | halted =>
      rw [runSteps_succ_of_halted h] at hrun
      cases hrun
    | fault c' v' =>
      rw [runSteps_succ_of_fault h] at hrun
      cases hrun
      exact ⟨s, rfl, h, stepState_of_fault h⟩

/-! ### The faulted core -/

/-- Every command but RESET keeps a core faulted (R157): a step leaves the state, so RUN does too, and the host's writes do
not reach the status registers. -/
theorem command_faulted_of_ne_reset {c : Command} (hc : c ≠ .reset) {s : State} (hf : s.faulted = true) :
    (command c s).1.faulted = true := by
  have step_keeps (t : State) (ht : t.faulted = true) : (stepState t).faulted = true := by
    rwa [(step_of_faulted ht).1]
  obtain h | ⟨hreset, -⟩ | ⟨-, h⟩ | ⟨k, -, h⟩ | ⟨bin, prog, -, -, h⟩ | ⟨i, v, -, -, -, h⟩ | ⟨a, v, -, -, -, h⟩ :=
    command_fst_cases c s
  case inr.inl => exact absurd hreset hc
  case inr.inr.inl => exact h ▸ step_keeps s hf
  case inr.inr.inr.inl => exact h ▸ runSteps_invariant step_keeps k s hf
  all_goals simp [h, hf]

/-- Settles O33: the step of a faulted core leaves it, and a RUN stops at its first step. -/
theorem faultedCoreIsStuck : Obligations.FaultedCoreIsStuck := by
  unfold Obligations.FaultedCoreIsStuck
  intro s hf
  obtain ⟨hs, hr⟩ := step_of_faulted hf
  refine ⟨by rw [command, hs, hr], fun k => ?_, rfl, fun c hc => command_faulted_of_ne_reset hc hf, rfl⟩
  rw [command, runCommand, runSteps_succ_of_fault hr, hs]

end Sys2Proof.Machine
end

section
/-!
PROOFS. Data movement (R170, R171, R176, R182): what an instruction leaves, by what its execute phase answers; the execute
phases where the register indices exist; and the checks of the indices that do not (R270; log 12).
-/

namespace Sys2Proof.Machine

/-! ### An instruction by the answer of its execute phase -/

/-- An execute phase that answers a register write: the register holds the value, and nothing else changes but `pc`
(R150). -/
theorem exec_of_ok_reg {i : Instr} {s : State} {r v : Nat} (hr : r < 32) (h : executePhase i s = .ok (.reg r v)) :
    ∃ t, exec i s = .next t ∧ t.reg r = v ∧ (∀ j, j ≠ r → t.reg j = s.reg j) ∧
      t = { s with regs := t.regs, pc := s.pc + 1 } := by
  refine ⟨s.commit (.reg r v), ?_, ?_, fun j hj => ?_, rfl⟩
  · rw [exec_eq_retire, h, State.retire]
  · simp [State.reg_commit_reg, hr]
  · simp [State.reg_commit_reg, hj.symm]

/-- An execute phase that answers a memory write: the word holds the value, and nothing else changes but `pc` (R150). -/
theorem exec_of_ok_mem {i : Instr} {s : State} {a v : Nat} (h : executePhase i s = .ok (.mem a v)) :
    ∃ t, exec i s = .next t ∧ t.mem.read a = v ∧ (∀ b, b ≠ a → t.mem.read b = s.mem.read b) ∧
      t = { s with mem := t.mem, pc := s.pc + 1 } := by
  refine ⟨s.commit (.mem a v), ?_, ?_, fun b hb => ?_, rfl⟩
  · rw [exec_eq_retire, h, State.retire]
  · simp [Memory.read_write]
  · simp [Memory.read_write, hb.symm]

/-- An execute phase that raises: the fault is taken (R265). -/
theorem exec_of_error {i : Instr} {s : State} {e : OutOfBounds} (h : executePhase i s = .error e) :
    exec i s = .next (s.enterFault e) := by
  rw [exec_eq_retire, h, State.retire]

/-! ### The execute phases where the register indices exist -/

/-- Zero extension keeps a value that fits (R15). -/
theorem zext_of_lt {n v : Nat} (h : v < 2 ^ n) : zext n v = v := Nat.mod_eq_of_lt h

/-- LoadConst answers its constant, which fits every legal width of a word (R10, R171). -/
theorem executePhase_loadConst_of_lt {reg const : Nat} {s : State} (hreg : reg < 32) (hconst : const < 2 ^ 24)
    (hbits : 24 ≤ s.params.wordBits) : executePhase (.loadConst reg const) s = .ok (.reg reg const) := by
  have hfits : const < 2 ^ s.params.wordBits := hconst.trans_le (Nat.pow_le_pow_right two_pos hbits)
  rw [executePhase, loadConstPhase_eq, if_neg hreg.not_ge, zext_of_lt hfits]

/-- ReadMem of registers that exist: the memory check alone is left (R176). -/
theorem executePhase_readMem_of_lt {src dst : Nat} (s : State) (hsrc : src < 32) (hdst : dst < 32) :
    executePhase (.readMem src dst) s =
      if s.params.memSize ≤ s.reg src then .error (.mem (s.reg src))
      else .ok (.reg dst (s.mem.read (s.reg src))) := by
  rw [executePhase, readMemPhase_eq, if_neg hsrc.not_ge, if_neg hdst.not_ge]

/-- WriteMem of registers that exist: the memory check alone is left (R182). -/
theorem executePhase_writeMem_of_lt {src ad : Nat} (s : State) (hsrc : src < 32) (had : ad < 32) :
    executePhase (.writeMem src ad) s =
      if s.params.memSize ≤ s.reg ad then .error (.mem (s.reg ad))
      else .ok (.mem (s.reg ad) (s.reg src)) := by
  rw [executePhase, writeMemPhase_eq, if_neg hsrc.not_ge, if_neg had.not_ge]

/-- Settles O18: the constant fits a word of every legal instance, so it is what the register receives. -/
theorem loadConstWritesConstant : Obligations.LoadConstWritesConstant := by
  unfold Obligations.LoadConstWritesConstant
  exact ⟨by decide, fun reg const hreg hconst => ⟨rfl, fun s hbits =>
    exec_of_ok_reg hreg (executePhase_loadConst_of_lt hreg hconst hbits)⟩⟩

/-- Settles O19: the two sides of the memory check, a register write and a fault. -/
theorem readMemReadsOrFaults : Obligations.ReadMemReadsOrFaults := by
  unfold Obligations.ReadMemReadsOrFaults
  refine ⟨by decide, fun src dst hsrc hdst => ⟨rfl, fun s => ?_⟩⟩
  have hphase := executePhase_readMem_of_lt s hsrc hdst
  constructor <;> intro haddr
  · exact exec_of_ok_reg hdst (hphase.trans (if_neg haddr.not_ge))
  · exact exec_of_error (hphase.trans (if_pos haddr))

/-- Settles O20: the two sides of the memory check, a memory write and a fault. -/
theorem writeMemWritesOrFaults : Obligations.WriteMemWritesOrFaults := by
  unfold Obligations.WriteMemWritesOrFaults
  refine ⟨by decide, fun src ad hsrc had => ⟨rfl, fun s => ?_⟩⟩
  have hphase := executePhase_writeMem_of_lt s hsrc had
  constructor <;> intro haddr
  · exact exec_of_ok_mem (hphase.trans (if_neg haddr.not_ge))
  · exact exec_of_error (hphase.trans (if_pos haddr))

/-! ### The register indices that do not exist -/

/-- ReadMem and WriteMem check their first register before the second (R270 item 1; log 12). -/
theorem executePhase_move_of_first_ge {idx : Nat} (s : State) (r : Nat) (h : 32 ≤ idx) :
    executePhase (.readMem idx r) s = .error (.reg idx) ∧ executePhase (.writeMem idx r) s = .error (.reg idx) :=
  ⟨(readMemPhase_eq idx r s).trans (if_pos h), (writeMemPhase_eq idx r s).trans (if_pos h)⟩

/-- ReadMem and WriteMem check their second register after the first and before the address (R270 item 1; log 12). -/
theorem executePhase_move_of_second_ge {r idx : Nat} (s : State) (hr : r < 32) (h : 32 ≤ idx) :
    executePhase (.readMem r idx) s = .error (.reg idx) ∧ executePhase (.writeMem r idx) s = .error (.reg idx) :=
  ⟨by rw [executePhase, readMemPhase_eq, if_neg hr.not_ge, if_pos h],
    by rw [executePhase, writeMemPhase_eq, if_neg hr.not_ge, if_pos h]⟩

/-- A well-formed instruction can raise a memory fault only, so no register check fires (R170). -/
theorem executePhase_ne_error_reg {i : Instr} (hi : i.wellFormed = true) (s : State) (idx : Nat) :
    executePhase i s ≠ .error (.reg idx) := by
  intro h
  obtain ⟨a, hmem, -⟩ := executePhase_error i s _ hi h
  cases hmem

/-- Settles O25: each execute phase starts with its register checks, in operand order. -/
theorem registerIndexChecked : Obligations.RegisterIndexChecked := by
  unfold Obligations.RegisterIndexChecked
  refine ⟨fun s idx k h => (loadConstPhase_eq idx k s).trans (if_pos h), fun s idx r h => ?_,
    fun s idx m h => (shiftRightPhase_eq idx m s).trans (if_pos h), fun idx => ⟨rfl, rfl⟩,
    fun s i idx hi => executePhase_ne_error_reg hi s idx⟩
  obtain ⟨hread, hwrite⟩ := executePhase_move_of_first_ge s r h
  exact ⟨hread, hwrite, fun hr => executePhase_move_of_second_ge s hr h⟩

end Sys2Proof.Machine
end

section
/-!
PROOFS. ShiftRight (R200, R201, R202): the shift as a quotient, the two sides of the memory check, and the amounts of a
word's width and more.
-/

namespace Sys2Proof.Machine

/-- The logical right shift is the quotient by a power of two (R200). -/
theorem lsr_eq_div (v n : Nat) : lsr v n = v / 2 ^ n := Nat.shiftRight_eq_div_pow v n

/-- A shift by a word's width or more leaves nothing of a word (R202). -/
theorem lsr_eq_zero_of_le {v n w : Nat} (hv : v < 2 ^ w) (hn : w ≤ n) : lsr v n = 0 := by
  have hlt : v < 2 ^ n := hv.trans_le (Nat.pow_le_pow_right two_pos hn)
  rw [lsr_eq_div, Nat.div_eq_of_lt hlt]

/-- ShiftRight of a register that exists: the memory check alone is left (R201). -/
theorem executePhase_shiftRight_of_lt {reg : Nat} (s : State) (m : Nat) (hreg : reg < 32) :
    executePhase (.shiftRight reg m) s =
      if s.params.memSize ≤ m then .error (.mem m)
      else .ok (.reg reg (lsr (s.reg reg) (s.mem.read m))) := by
  rw [executePhase, shiftRightPhase_eq, if_neg hreg.not_ge]

/-- ShiftRight with its address in bounds: the register holds the shifted value, and nothing else changes but `pc`
(R201). -/
theorem exec_shiftRight_of_lt {reg m : Nat} {s : State} (hreg : reg < 32) (hm : m < s.params.memSize) :
    ∃ t, exec (.shiftRight reg m) s = .next t ∧ t.reg reg = lsr (s.reg reg) (s.mem.read m) ∧
      (∀ j, j ≠ reg → t.reg j = s.reg j) ∧ t = { s with regs := t.regs, pc := s.pc + 1 } :=
  exec_of_ok_reg hreg ((executePhase_shiftRight_of_lt s m hreg).trans (if_neg hm.not_ge))

/-- Settles O21: the two sides of the memory check, a register write and a fault. -/
theorem shiftRightShiftsOrFaults : Obligations.ShiftRightShiftsOrFaults := by
  unfold Obligations.ShiftRightShiftsOrFaults
  refine ⟨by decide, fun reg m hreg _ => ⟨rfl, fun s => ⟨fun hm => ?_, fun hm => ?_⟩⟩⟩
  · rw [← lsr_eq_div]
    exact exec_shiftRight_of_lt hreg hm
  · exact exec_of_error ((executePhase_shiftRight_of_lt s m hreg).trans (if_pos hm))

/-- Settles O22: the register receives the quotient by the whole amount, which is 0 from the width of a word on. -/
theorem shiftAmountIsNotMasked : Obligations.ShiftAmountIsNotMasked := by
  unfold Obligations.ShiftAmountIsNotMasked
  intro s reg m hreg hm
  obtain ⟨t, hexec, hval, -, -⟩ := exec_shiftRight_of_lt hreg hm
  exact ⟨t, hexec, hval.trans (lsr_eq_div _ _), fun hv hn => hval.trans (lsr_eq_zero_of_le hv hn)⟩

end Sys2Proof.Machine
end

section
/-!
PROOFS. The host commands (R220 to R238): what the host's reads and writes of registers and memory answer, what ENCODE and
DECODE answer, and the two rules over all commands: an error response keeps the state (R221), and the status registers
reach only STEP, RUN, RESET and STATUS_READ (R222).
-/

namespace Sys2Proof.Machine

/-! ### Reads and writes of registers and memory -/

/-- What REG_READ answers (R236). -/
theorem regReadResponse_eq (i : Nat) (s : State) :
    regReadResponse i s = if 32 ≤ i then .error (.outOfBounds (.reg i)) else .value (s.reg i) := by
  rw [regReadResponse, State.checkReg_eq]
  split_ifs <;> rfl

/-- What REG_WRITE leaves and answers: the index check, then the value check (R237, R270 item 4). -/
theorem regWriteCommand_eq (i v : Nat) (s : State) :
    regWriteCommand i v s =
      if 32 ≤ i then (s, .error (.outOfBounds (.reg i)))
      else if 2 ^ s.params.wordBits ≤ v then (s, .error (.valueRange v))
      else (s.setReg i v, .ok) := by
  rw [regWriteCommand, State.checkReg_eq]
  by_cases hi : 32 ≤ i
  · rw [if_pos hi, if_pos hi]
  · rw [if_neg hi, if_neg hi]

/-- What MEM_WRITE leaves and answers: the address check, then the value check (R238, R270 item 4). -/
theorem memWriteCommand_eq (a v : Nat) (s : State) :
    memWriteCommand a v s =
      if s.params.memSize ≤ a then (s, .error (.outOfBounds (.mem a)))
      else if 2 ^ s.params.wordBits ≤ v then (s, .error (.valueRange v))
      else (s.setMem a v, .ok) := by
  rw [memWriteCommand, State.checkMem_eq]
  by_cases ha : s.params.memSize ≤ a
  · rw [if_pos ha, if_pos ha]
  · rw [if_neg ha, if_neg ha]

/-- Settles O48: the two sides of the index check; PC_READ reads `pc` and `PLEN` as they are. (The model's function has the
name `regReadResponse`.) -/
theorem regReadResponse_and_pcRead : Obligations.RegReadResponse := by
  unfold Obligations.RegReadResponse
  refine fun s i => ⟨fun hi => ?_, fun hi => ?_, rfl, rfl⟩
  · rw [command, regReadResponse_eq, if_neg hi.not_ge]
  · rw [command, regReadResponse_eq, if_pos hi]

/-- Settles O49: the write where both checks pass, and the two refusals. -/
theorem regWriteEffect : Obligations.RegWriteEffect := by
  unfold Obligations.RegWriteEffect
  refine fun s i v => ⟨fun hi hv => ⟨s.setReg i v, ?_, ?_, fun j hj => ?_, rfl⟩, fun hi => ?_, fun hi hv => ?_, rfl, rfl⟩
  · rw [command, regWriteCommand_eq, if_neg hi.not_ge, if_neg hv.not_ge]
  · rw [State.reg_setReg, if_pos ⟨rfl, hi⟩]
  · rw [State.reg_setReg, if_neg fun h => hj h.1.symm]
  · rw [command, regWriteCommand_eq, if_pos hi]
  · rw [command, regWriteCommand_eq, if_neg hi.not_ge, if_pos hv]

/-- Settles O50: the write where both checks pass, and the two refusals. -/
theorem memWriteEffect : Obligations.MemWriteEffect := by
  unfold Obligations.MemWriteEffect
  refine fun s a v => ⟨fun ha hv => ⟨s.setMem a v, ?_, ?_, fun b hb => ?_, rfl⟩, fun ha => ?_, fun ha hv => ?_, rfl, rfl⟩
  · rw [command, memWriteCommand_eq, if_neg ha.not_ge, if_neg hv.not_ge]
  · rw [State.setMem_mem, Memory.read_write, if_pos rfl]
  · rw [State.setMem_mem, Memory.read_write, if_neg hb.symm]
  · rw [command, memWriteCommand_eq, if_pos ha]
  · rw [command, memWriteCommand_eq, if_neg ha.not_ge, if_pos hv]

/-! ### ENCODE and DECODE -/

/-- A mnemonic names its own opcode, and no other has it (R100). -/
theorem OpcodeRef.resolve_mnemonicOf (op : Opcode) : (OpcodeRef.mnemonic (mnemonicOf op)).resolve = some op := by
  cases op <;> decide

/-- A number names an opcode exactly when it is that opcode's code (R103; log 11). -/
theorem OpcodeRef.resolve_code_eq_some (c : Nat) (op : Opcode) :
    (OpcodeRef.code c).resolve = some op ↔ c = op.code := by
  rw [OpcodeRef.resolve]
  constructor
  · exact fun h => (Opcode.code_of_ofCode c op h).symm
  · rintro rfl
    exact op.ofCode_code

/-- An unknown opcode is refused before the operands are looked at (R270 item 3). -/
theorem buildInstr_of_unknown {ref : OpcodeRef} (h : ref.resolve = none) (xs : List Nat) :
    buildInstr ref xs = .error .unknownOpcode := by
  rw [buildInstr, h]

/-- Every instruction has two operands; any other number of them is refused (R101). -/
theorem buildInstr_of_length_ne {xs : List Nat} (h : xs.length ≠ 2) (ref : OpcodeRef) :
    ∃ why, buildInstr ref xs = .error why := by
  unfold buildInstr
  cases ref.resolve with
  | none => exact ⟨_, rfl⟩
  | some op =>
    match xs, h with
    | [], _ => exact ⟨_, rfl⟩
    | [_], _ => exact ⟨_, rfl⟩
    | [_, _], h => exact absurd rfl h
    | _ :: _ :: _ :: _, _ => exact ⟨_, rfl⟩

/-- Operands in range build the instruction they are the operands of (R101). -/
theorem buildInstr_of_wellFormed {ref : OpcodeRef} {op : Opcode} {x y : Nat} (hop : ref.resolve = some op)
    (h : (op.instr x y).wellFormed = true) : buildInstr ref [x, y] = .ok (op.instr x y) := by
  simp [buildInstr, hop, (Laws.badOperand_eq_none _).mpr h]

/-- An operand out of range is refused (R101). -/
theorem buildInstr_of_not_wellFormed {ref : OpcodeRef} {op : Opcode} {x y : Nat} (hop : ref.resolve = some op)
    (h : (op.instr x y).wellFormed = false) : ∃ why, buildInstr ref [x, y] = .error why := by
  have hbad : (op.instr x y).badOperand ≠ none := fun hnone => by simp [(Laws.badOperand_eq_none _).mp hnone] at h
  obtain ⟨position, hposition⟩ := Option.ne_none_iff_exists'.mp hbad
  exact ⟨.operandRange position, by simp [buildInstr, hop, hposition]⟩

/-- ENCODE of what builds an instruction answers its record (R228). -/
theorem command_encode_of_ok {ref : OpcodeRef} {xs : List Nat} {i : Instr} (h : buildInstr ref xs = .ok i) (s : State) :
    command (.encode ref xs) s = (s, .encoded (encode i)) := by
  rw [command, encodeResponse, h]

/-- ENCODE of what builds no instruction answers why (R228). -/
theorem command_encode_of_error {ref : OpcodeRef} {xs : List Nat} (h : ∃ why, buildInstr ref xs = .error why)
    (s : State) : ∃ why, command (.encode ref xs) s = (s, .error (.invalidInstruction why)) := by
  obtain ⟨why, h⟩ := h
  exact ⟨why, by rw [command, encodeResponse, h]⟩

/-- Settles O53: each check of the construction is one of its refusals, and what passes them all is encoded. -/
theorem encodeCommandChecks : Obligations.EncodeCommandChecks := by
  unfold Obligations.EncodeCommandChecks
  refine ⟨OpcodeRef.resolve_mnemonicOf, OpcodeRef.resolve_code_eq_some, fun _ => rfl, fun s ref xs =>
    ⟨fun h => command_encode_of_error ⟨_, buildInstr_of_unknown h xs⟩ s,
      fun h => command_encode_of_error (buildInstr_of_length_ne h ref) s, ?_⟩⟩
  rintro op x y hop rfl
  exact ⟨fun h => command_encode_of_ok (buildInstr_of_wellFormed hop h) s,
    fun h => command_encode_of_error (buildInstr_of_not_wellFormed hop h) s⟩

/-- Settles O54: the response is the decoder's answer, by its two forms. -/
theorem decodeCommandAnswers : Obligations.DecodeCommandAnswers := by
  unfold Obligations.DecodeCommandAnswers
  refine ⟨rfl, fun _ => rfl, fun s b => ⟨fun i n h => ?_, fun e h => ?_⟩⟩ <;> rw [command, decodeResponse, h]

/-! ### Error responses, and the faulted core -/

/-- Settles O44: the commands that write state answer an error only from a check, before they write. -/
theorem errorResponseKeepsState : Obligations.ErrorResponseKeepsState := by
  unfold Obligations.ErrorResponseKeepsState
  intro c s e
  cases c with
  | reset | step | run => exact nofun
  | load bin =>
    cases h : load s.params.progCap bin with
    | ok prog => simp [command_load_of_ok h]
    | error why => simp [command_load_of_error h]
  | regWrite i v =>
    rw [command, regWriteCommand_eq]
    split_ifs <;> simp
  | memWrite a v =>
    rw [command, memWriteCommand_eq]
    split_ifs <;> simp
  | dump | encode | decode | statusRead | pcRead | regRead => exact fun _ => rfl

/-- The commands that neither run instructions nor reset or read the status registers do the same whatever these hold, and
leave them (R222): no check they make reads them. -/
theorem command_with_status {c : Command} (hreset : c ≠ .reset) (hstep : c ≠ .step) (hrun : ∀ k, c ≠ .run k)
    (hstatus : c ≠ .statusRead) (s : State) (f : Bool) (ca : Cause) (v : Nat) :
    command c { s with faulted := f, cause := ca, faultInfo := v } =
      ({ (command c s).1 with faulted := f, cause := ca, faultInfo := v }, (command c s).2) := by
  cases c with
  | reset => exact absurd rfl hreset
  | step => exact absurd rfl hstep
  | run k => exact absurd rfl (hrun k)
  | statusRead => exact absurd rfl hstatus
  | load bin =>
    cases h : load s.params.progCap bin with
    | ok prog =>
      rw [command_load_of_ok (s := s) h]
      exact command_load_of_ok h
    | error why =>
      rw [command_load_of_error (s := s) h]
      exact command_load_of_error h
  | regWrite i w =>
    simp only [command, regWriteCommand_eq]
    split_ifs <;> rfl
  | memWrite a w =>
    simp only [command, memWriteCommand_eq]
    split_ifs <;> rfl
  | dump | encode | decode | pcRead | regRead => rfl

/-- Settles O45: the faulted core is stuck for STEP and RUN, RESET overwrites the status registers, and the other commands
do not depend on them. -/
theorem faultedCoreServesHost : Obligations.FaultedCoreServesHost := by
  unfold Obligations.FaultedCoreServesHost
  rintro c s _ f ca v rfl
  refine ⟨fun hreset hstep hrun hstatus => command_with_status hreset hstep hrun hstatus s f ca v, rfl, fun hf => ?_,
    rfl, rfl⟩
  obtain ⟨hstep, hrun, -⟩ :=
    faultedCoreIsStuck { s with faulted := f, cause := ca, faultInfo := v } hf
  exact ⟨hstep, hrun⟩

end Sys2Proof.Machine
end

section
/-!
PROOFS. Taking an execution fault (R265): what the step that raises it leaves, and what STEP and RUN answer.
-/

namespace Sys2Proof.Machine

/-- The step whose execute phase raises takes the fault, and reports its cause and information (R150, R265). -/
theorem step_of_error {s : State} {i : Instr} {e : OutOfBounds} (hf : s.faulted = false) (hi : s.fetch = some i)
    (he : executePhase i s = .error e) :
    stepState s = s.enterFault e ∧ stepResult s = .fault e.cause e.info := by
  simpa [hf, hi, he] using stepState_cases s

/-- Settles O27: the step takes the fault, STEP answers the step's result, and a RUN stops at this first step. -/
theorem faultEntry : Obligations.FaultEntry := by
  unfold Obligations.FaultEntry
  intro s i e hf hi he
  obtain ⟨hs, hr⟩ := step_of_error hf hi he
  refine ⟨s.enterFault e, rfl, ?_, ?_, fun k => ?_⟩
  · rw [step_eq_next, hs]
  · rw [command, hs, hr]
  · rw [command, runCommand, runSteps_succ_of_fault hr, hs]

end Sys2Proof.Machine
end

section
/-!
PROOFS. Power-on and RESET (R290, R291): the cleared memory and registers that both leave, and the fields of each.
-/

namespace Sys2Proof.Machine

/-- The empty memory reads 0 at every address (R46). -/
theorem Memory.read_empty (a : Nat) : Memory.read [] a = 0 := Memory.read_of_not_listed [] a nofun

/-- A newly constructed core is READY without an error, and HALTED since its program store is empty (R48, R290). -/
theorem State.construct_statusWord (p : Params) : (State.construct p).statusWord = 0x10 := by
  have hhalted : (State.construct p).halted = true := (State.halted_iff _).mpr (Nat.le_refl 0)
  simp [State.statusWord, hhalted, Cause.code]

/-- Settles O41: the register file and memory are the cleared ones, and STATUS has only HALTED set. -/
theorem constructedState : Obligations.ConstructedState := by
  unfold Obligations.ConstructedState
  refine ⟨rfl, rfl, ?_⟩
  rintro p _ rfl
  exact ⟨rfl, State.reg_of_replicate _ (State.construct_regs p), Memory.read_empty, rfl, rfl, rfl, rfl, rfl, rfl,
    State.construct_statusWord p⟩

/-- Settles O42: RESET leaves `resetCore`, whose register file and memory are the cleared ones. -/
theorem resetCommandEffect : Obligations.ResetCommandEffect := by
  unfold Obligations.ResetCommandEffect
  exact fun s => ⟨s.resetCore, rfl, State.reg_of_replicate _ s.resetCore_regs, Memory.read_empty, rfl, rfl, rfl, rfl, rfl,
    rfl, rfl⟩

end Sys2Proof.Machine
end

section
/-!
PROOFS. The laws of the codec that start from a record: a decoded record's packed value is the record's number without
the unused bits (R131), and the record's bytes by field (R104, R107, R108).
-/

namespace Sys2Proof

/-- Byte strings of one length with one number are the same string. -/
theorem leValue_inj_of_length {a b : List Byte} (hlen : a.length = b.length) : leValue a = leValue b ↔ a = b := by
  refine ⟨fun h => ?_, fun h => congrArg leValue h⟩
  rw [← leBytes_leValue a, ← leBytes_leValue b, hlen, h]

/-- What is left of a number from a bit on is the field up to its top bit. -/
theorem shiftRight_eq_bits {v hi : Nat} (lo : Nat) (hlo : lo ≤ hi) (hv : v < 2 ^ (hi + 1)) :
    v >>> lo = bits v hi lo := by
  rw [bits, Nat.mod_eq_of_lt]
  rw [Nat.shiftRight_eq_div_pow, Nat.div_lt_iff_lt_mul (Nat.two_pow_pos lo), ← Nat.pow_add,
    Nat.sub_add_cancel (by omega)]
  exact hv

/-- A field that reaches to the top of a number is empty exactly when the number ends below it. -/
theorem bits_eq_zero_iff_lt {v hi lo : Nat} (hlo : lo ≤ hi) (hv : v < 2 ^ (hi + 1)) :
    bits v hi lo = 0 ↔ v < 2 ^ lo := by
  rw [← shiftRight_eq_bits lo hlo hv, Nat.shiftRight_eq_div_pow, Nat.div_eq_zero_iff_lt (Nat.two_pow_pos lo)]

/-- Packing the fields cut from a number that starts with the opcode's code gives the number's bits up to field A (R105,
R117). -/
theorem packed_bits {op : Opcode} {v : Nat} (hop : v % 2 ^ 7 = op.code) :
    packed (op.instr (bits v 11 7) (bits v (11 + op.aBits) 12)) = v % 2 ^ (12 + op.aBits) := by
  have hB : (op.instr (bits v 11 7) (bits v (11 + op.aBits) 12)).fieldB < 2 ^ 5 := by
    rw [Opcode.instr_fieldB]
    exact bits_lt v 11 7
  rw [packed_eq_sum hB, Opcode.instr_fieldA, Opcode.instr_fieldB, Opcode.instr_opcode, bits_eq, bits_eq, Nat.pow_add,
    Nat.mod_mul, show 11 + op.aBits + 1 - 12 = op.aBits by omega, ← hop]
  omega

/-- Settles O9: the encoding has the record's number without its unused bits, so it is the record when these are 0. -/
theorem encodeOfDecodeCanonical : Obligations.EncodeOfDecodeCanonical := by
  unfold Obligations.EncodeOfDecodeCanonical
  intro op b i n hlen hop hdec
  rw [decode_of_code hop] at hdec
  cases hdec
  have hused := op.aBits_lt_recordBits
  have hb : leValue b < 2 ^ (8 * op.recordBytes - 1 + 1) := by
    rw [Nat.sub_add_cancel (by omega), ← hlen]
    exact leValue_lt b
  have hnum : leValue (encode (op.instr (bits (leValue b) 11 7) (bits (leValue b) (11 + op.aBits) 12))) =
      leValue b % 2 ^ (12 + op.aBits) := by
    rw [encode, leValue_leBytes, Opcode.instr_opcode, packed_bits hop]
    exact Nat.mod_eq_of_lt ((Nat.mod_lt _ (Nat.two_pow_pos _)).trans (Nat.pow_lt_pow_right (by decide) hused))
  rw [← leValue_inj_of_length (by rw [encode_length, Opcode.instr_opcode, hlen]), hnum,
    Nat.mod_eq_iff_lt (Nat.two_pow_pos _).ne', bits_eq_zero_iff_lt (by omega) hb]

/-- A byte of a number is the field of its eight bits (R14, R16). -/
theorem ofNat_shiftRight_eq_bits (v lo : Nat) : BitVec.ofNat 8 (v >>> lo) = BitVec.ofNat 8 (bits v (lo + 7) lo) := by
  apply BitVec.eq_of_toNat_eq
  rw [BitVec.toNat_ofNat, BitVec.toNat_ofNat, bits, show lo + 7 + 1 - lo = 8 by omega, Nat.mod_mod]

/-- The first two bytes of a packed value hold the code, field B and four bits of field A; the rest of A follows (R104,
R107, R108). -/
theorem leBytes_packed (i : Instr) (hB : i.fieldB < 2 ^ 5) (n : Nat) :
    leBytes (n + 2) (packed i) =
      BitVec.ofNat 8 (i.opcode.code ||| (bits i.fieldB 0 0 <<< 7)) ::
      BitVec.ofNat 8 (bits i.fieldB 4 1 ||| (bits i.fieldA 3 0 <<< 4)) :: leBytes n (i.fieldA >>> 4) := by
  have hC := i.opcode.code_lt
  have hlow : i.opcode.code ||| (bits i.fieldB 0 0 <<< 7) = bits i.fieldB 0 0 <<< 7 + i.opcode.code := by
    rw [Nat.or_comm, ← Nat.shiftLeft_add_eq_or_of_lt hC]
  have hmid : bits i.fieldB 4 1 ||| (bits i.fieldA 3 0 <<< 4) = bits i.fieldA 3 0 <<< 4 + bits i.fieldB 4 1 := by
    rw [Nat.or_comm, ← Nat.shiftLeft_add_eq_or_of_lt (bits_lt i.fieldB 4 1)]
  rw [leBytes, leBytes, hlow, hmid, packed_eq_sum hB]
  simp only [bits_eq, Nat.shiftLeft_eq, Nat.shiftRight_eq_div_pow]
  congr 1
  · apply BitVec.eq_of_toNat_eq
    simp only [BitVec.toNat_ofNat]
    omega
  · congr 1
    · apply BitVec.eq_of_toNat_eq
      simp only [BitVec.toNat_ofNat]
      omega
    · congr 1
      omega

/-- Settles O4: field A from its bit 4 on fills the record's third and later bytes. -/
theorem recordBytesByField : Obligations.RecordBytesByField := by
  unfold Obligations.RecordBytesByField
  refine ⟨fun reg const hreg hconst => ?_, fun b a hb ha => ?_, fun b a hb ha => ?_, fun reg m hreg hm => ?_⟩
  · refine (leBytes_packed (.loadConst reg const) hreg 3).trans ?_
    simp only [leBytes, Instr.fieldA, ← Nat.shiftRight_add, shiftRight_eq_bits 20 (by decide) hconst,
      ofNat_shiftRight_eq_bits const]
    rfl
  · refine (leBytes_packed (.readMem b a) hb 1).trans ?_
    simp only [leBytes, Instr.fieldA, shiftRight_eq_bits 4 (le_refl 4) ha]
    rfl
  · refine (leBytes_packed (.writeMem b a) hb 1).trans ?_
    simp only [leBytes, Instr.fieldA, shiftRight_eq_bits 4 (le_refl 4) ha]
    rfl
  · refine (leBytes_packed (.shiftRight reg m) hreg 4).trans ?_
    simp only [leBytes, Instr.fieldA, ← Nat.shiftRight_add, shiftRight_eq_bits 28 (by decide) hm,
      ofNat_shiftRight_eq_bits m]
    rfl

/-- Settles O1: the model runs on each of the records. -/
theorem specRecordsDecode : Obligations.SpecRecordsDecode := by
  unfold Obligations.SpecRecordsDecode
  exact ⟨rfl, rfl, rfl, rfl, rfl, rfl, rfl, rfl, rfl, rfl, rfl⟩

end Sys2Proof
end

section
/-!
PROOFS. What the loader answers when it succeeds (R120): the packaged induction over its scan, with the length (R129),
the capacity (R128) and the well-formedness (R117) of the program; and the loading of encodings (R132).
-/

namespace Sys2Proof

/-- Whatever the bytes are, the decoder's field cut is well-formed (R117). -/
theorem decodeFields_wellFormed (op : Opcode) (b : List Byte) : (decodeFields op b).wellFormed = true := by
  have hA := bits_lt (leValue b) (11 + op.aBits) 12
  rw [show 11 + op.aBits + 1 - 12 = op.aBits by omega] at hA
  rw [decodeFields_eq, Opcode.instr_wellFormed_iff]
  exact ⟨bits_lt (leValue b) 11 7, hA⟩

namespace Machine

/-- The induction over a scan that succeeds: a property of the bytes, the bytes still to skip, the count and the program
holds if the end of the image has it, and a skipped byte and a record start with room in the store hand it on. -/
theorem loadScan_ok_induction {cap : Option Nat} {p : List Byte → Nat → Nat → List Instr → Prop}
    (nil : ∀ skip count, p [] skip count [])
    (skipped : ∀ x xs skip count prog, p xs skip count prog → p (x :: xs) (skip + 1) count prog)
    (record : ∀ x xs count op prog, exceeds cap (count + 1) = false → p xs (op.recordBytes - 1) (count + 1) prog →
      p (x :: xs) 0 count (decodeFields op (x :: xs) :: prog))
    {b : List Byte} {skip off count : Nat} {prog : List Instr} (h : loadScan cap b skip off count = .ok prog) :
    p b skip count prog := by
  induction b generalizing skip off count prog with
  | nil =>
    cases h
    exact nil skip count
  | cons x xs ih =>
    cases skip with
    | succ skip => exact skipped x xs skip count prog (ih h)
    | zero =>
      cases hop : Opcode.ofCode (codeOf x) with
      | none => rw [loadScan_unknown cap xs off count hop] at h; cases h
      | some op =>
        rw [loadScan_code cap xs off count hop] at h
        cases hcap : exceeds cap (count + 1) with
        | true => rw [hcap] at h; cases h
        | false =>
          cases hrest : loadScan cap xs (op.recordBytes - 1) (off + 1) (count + 1) with
          | error e => rw [hcap, hrest] at h; cases h
          | ok prog' =>
            rw [hcap, hrest] at h
            cases h
            exact record x xs count op prog' hcap (ih hrest)

/-- Every record takes three bytes or more, but the last one, which the image may end inside. -/
theorem loadScan_length_le {cap : Option Nat} {b : List Byte} {skip off count : Nat} {prog : List Instr}
    (h : loadScan cap b skip off count = .ok prog) : 3 * prog.length ≤ b.length - skip + 2 := by
  refine loadScan_ok_induction (p := fun b skip _ prog => 3 * prog.length ≤ b.length - skip + 2)
    (fun _ _ => Nat.zero_le _) (fun x xs skip _ prog ih => ?_) (fun x xs _ op prog _ ih => ?_) h
  · rwa [List.length_cons, Nat.add_sub_add_right]
  · have hwidth : 3 ≤ op.recordBytes := by cases op <;> decide
    rw [List.length_cons, List.length_cons]
    omega

/-- Settles O17: the scan of the whole image skips nothing at its start. -/
theorem loadLengthBound : Obligations.LoadLengthBound := by
  unfold Obligations.LoadLengthBound
  intro cap bin prog h
  have hlen := loadScan_length_le h
  omega

/-- The loader accepts well-formed instructions only. -/
theorem load_wellFormed {cap : Option Nat} {bin : List Byte} {prog : List Instr} (h : load cap bin = .ok prog) :
    ∀ i ∈ prog, i.wellFormed = true :=
  loadScan_ok_induction (p := fun _ _ _ prog => ∀ i ∈ prog, i.wellFormed = true) (fun _ _ => nofun)
    (fun _ _ _ _ _ ih => ih)
    (fun x xs _ op _ _ ih => List.forall_mem_cons.mpr ⟨decodeFields_wellFormed op (x :: xs), ih⟩) h

/-- The loader accepts no more instructions than the store holds (R128). -/
theorem load_not_exceeds {cap : Option Nat} {bin : List Byte} {prog : List Instr} (h : load cap bin = .ok prog) :
    exceeds cap prog.length = false := by
  have hscan := loadScan_ok_induction
    (p := fun _ _ count prog => exceeds cap count = false → exceeds cap (count + prog.length) = false)
    (fun _ _ h => h) (fun _ _ _ _ _ ih => ih) (fun _ _ count _ prog hroom ih _ => ?_) h
  · rw [Nat.zero_add] at hscan
    exact hscan (by cases cap <;> simp [exceeds])
  · rw [List.length_cons, Nat.add_comm prog.length, ← Nat.add_assoc]
    exact ih hroom

/-- The encoding of a well-formed instruction is one whole record of it (R111, R130). -/
theorem isRecordOf_encode {i : Instr} (hi : i.wellFormed = true) : IsRecordOf (encode i) i := by
  rw [IsRecordOf, encode_length]
  exact decodeOfEncode i hi

/-- Encodings one after the other load to their instructions, in a store with room for them (R132). -/
theorem load_flatMap_encode {cap : Option Nat} {prog : List Instr} (hprog : ∀ i ∈ prog, i.wellFormed = true)
    (hcap : exceeds cap prog.length = false) : load cap (prog.flatMap encode) = .ok prog := by
  have hrecords : List.Forall₂ IsRecordOf (prog.map encode) prog := by
    rw [List.forall₂_map_left_iff, List.forall₂_same]
    exact fun i hi => isRecordOf_encode (hprog i hi)
  have hscan := loadScan_records hrecords [] 0 0 (by rwa [Nat.zero_add])
  rw [List.append_nil] at hscan
  rw [load, List.flatMap_def, hscan]
  simp [loadScan, Except.map]

/-- Settles O12: an unbounded store has room for every program. -/
theorem loadOfEncodings : Obligations.LoadOfEncodings := by
  unfold Obligations.LoadOfEncodings
  exact fun prog hprog => load_flatMap_encode hprog rfl

end Machine

end Sys2Proof
end

section
/-!
PROOFS. Two bounds that the instructions keep: a legal state stays legal (`State.Inv`), and values below a bound stay
below it (R204). Both rest on one fact: an instruction writes a constant, or a value that is no larger than one in a
register or in memory (R203).
-/

namespace Sys2Proof

/-! ### Well-formedness by the operands (R101) -/

theorem Instr.wellFormed_loadConst_iff (reg const : Nat) :
    (Instr.loadConst reg const).wellFormed = true ↔ reg < 32 ∧ const < 2 ^ 24 := Instr.wellFormed_iff _

theorem Instr.wellFormed_readMem_iff (srcReg dstReg : Nat) :
    (Instr.readMem srcReg dstReg).wellFormed = true ↔ srcReg < 32 ∧ dstReg < 32 := Instr.wellFormed_iff _

theorem Instr.wellFormed_writeMem_iff (srcReg addrReg : Nat) :
    (Instr.writeMem srcReg addrReg).wellFormed = true ↔ srcReg < 32 ∧ addrReg < 32 := Instr.wellFormed_iff _

theorem Instr.wellFormed_shiftRight_iff (reg memAddr : Nat) :
    (Instr.shiftRight reg memAddr).wellFormed = true ↔ reg < 32 ∧ memAddr < 2 ^ 30 := Instr.wellFormed_iff _

namespace Machine

/-! ### Values below a bound -/

/-- Every register and memory word is below `bound`; `State.Below24` is the case of `2 ^ 24`. -/
def State.ValuesBelow (bound : Nat) (s : State) : Prop :=
  (∀ j, j < 32 → s.reg j < bound) ∧ ∀ a, s.mem.read a < bound

/-- The value a step writes. -/
def Write.value : Write → Nat
  | .reg _ v => v
  | .mem _ v => v

theorem lsr_le (v n : Nat) : lsr v n ≤ v := by
  rw [lsr_eq_div]
  exact Nat.div_le_self v (2 ^ n)

/-- Where registers and memory are below a bound, an instruction writes a value below it, if its constant is (R203). -/
theorem executePhase_value_lt {bound : Nat} {s : State} {i : Instr} {w : Write} (hs : s.ValuesBelow bound)
    (hconst : ∀ reg const, i = .loadConst reg const → zext s.params.wordBits const < bound)
    (h : executePhase i s = .ok w) : w.value < bound := by
  obtain ⟨hregs, hmem⟩ := hs
  obtain ⟨reg, const, hi, -, rfl⟩ | ⟨src, dst, -, -, -, -, rfl⟩ | ⟨src, addr, -, hsrc, -, -, rfl⟩ |
    ⟨reg, m, -, hreg, -, rfl⟩ := executePhase_ok i s w h
  · exact hconst reg const hi
  · exact hmem _
  · exact hregs src hsrc
  · exact (lsr_le _ _).trans_lt (hregs reg hreg)

/-- A register write keeps a bound that its value meets. -/
theorem State.reg_setReg_lt {bound i v : Nat} {s : State} (hs : ∀ j, j < 32 → s.reg j < bound) (hv : v < bound) :
    ∀ j, j < 32 → (s.setReg i v).reg j < bound := by
  intro j hj
  rw [State.reg_setReg]
  split_ifs
  · exact hv
  · exact hs j hj

/-- A memory write keeps a bound that its value meets. -/
theorem Memory.read_write_lt {bound a v : Nat} {m : Memory} (hm : ∀ b, m.read b < bound) (hv : v < bound) :
    ∀ b, (m.write a v).read b < bound := by
  intro b
  rw [Memory.read_write]
  split_ifs
  · exact hv
  · exact hm b

/-- A completed instruction keeps a bound that the value it writes meets. -/
theorem State.ValuesBelow.commit {bound : Nat} {s : State} {w : Write} (hs : s.ValuesBelow bound)
    (hw : w.value < bound) : (s.commit w).ValuesBelow bound := by
  obtain ⟨hregs, hmem⟩ := hs
  cases w with
  | reg i v => exact ⟨State.reg_setReg_lt hregs hw, hmem⟩
  | mem a v => exact ⟨hregs, Memory.read_write_lt hmem hw⟩

/-- The next state a step answers is the one it leaves. -/
theorem stepState_of_step_eq_next {s t : State} (h : step s = .next t) : stepState s = t := by
  rwa [step_eq_next, Host.Outcome.next.injEq] at h

/-- What is fetched from a well-formed program is well-formed. -/
theorem wellFormed_of_fetch {s : State} {i : Instr} (hp : ∀ i ∈ s.program, i.wellFormed = true)
    (hi : s.fetch = some i) : i.wellFormed = true := hp i (List.mem_of_getElem? hi)

/-- Settles O59: a constant has 24 bits, and zero extension does not enlarge it. -/
theorem valuesStayBelow24Bits : Obligations.ValuesStayBelow24Bits := by
  unfold Obligations.ValuesStayBelow24Bits
  intro s t hp hs hstep
  obtain rfl := stepState_of_step_eq_next hstep
  obtain ⟨-, h, -⟩ | ⟨-, -, h, -⟩ | ⟨i, w, -, hi, hw, h, -⟩ | ⟨i, e, -, -, -, h, -⟩ := stepState_cases s
  case inr.inr.inl =>
    rw [h]
    refine State.ValuesBelow.commit hs (executePhase_value_lt hs ?_ hw)
    rintro reg const rfl
    obtain ⟨-, hconst⟩ := (Instr.wellFormed_loadConst_iff reg const).mp (wellFormed_of_fetch hp hi)
    exact (Nat.mod_le _ _).trans_lt hconst
  all_goals rwa [h]

/-! ### The parts of a legal state -/

/-- A read of a memory whose listed words are below a bound is below it. -/
theorem Memory.read_lt {bound : Nat} {m : Memory} (hpos : 0 < bound) (hm : ∀ p ∈ m, p.2 < bound) (a : Nat) :
    m.read a < bound := by
  induction m with
  | nil => exact hpos
  | cons p rest ih =>
    obtain ⟨hp, hrest⟩ := List.forall_mem_cons.mp hm
    rw [Memory.read]
    split_ifs
    · exact hp
    · exact ih hrest

/-- In a legal state every value has `WORD_BITS` bits (R32, R45). -/
theorem State.Inv.valuesBelow {s : State} (hs : s.Inv) : s.ValuesBelow (2 ^ s.params.wordBits) := by
  obtain ⟨-, hregs, ⟨-, hlisted⟩, -⟩ := hs
  exact ⟨hregs, Memory.read_lt (Nat.two_pow_pos _) fun p hp => (hlisted p hp).2⟩

/-- In a legal state the program store holds well-formed instructions only (R41). -/
theorem State.Inv.program_wellFormed {s : State} (hs : s.Inv) : ∀ i ∈ s.program, i.wellFormed = true := by
  obtain ⟨-, -, -, ⟨hwf, -⟩, -⟩ := hs
  exact hwf

/-- A write in bounds of a word that fits keeps memory legal. -/
theorem State.MemFits.setMem {s : State} {a v : Nat} (hs : s.MemFits) (ha : a < s.params.memSize)
    (hv : v < 2 ^ s.params.wordBits) : (s.setMem a v).MemFits := by
  obtain ⟨hwf, hlisted⟩ := hs
  refine ⟨s.mem.wf_write a v hwf, fun p hp => ?_⟩
  obtain ⟨rfl, -⟩ | ⟨hold, -⟩ := Memory.mem_write s.mem a v p hp
  · exact ⟨ha, hv⟩
  · exact hlisted p hold

/-- A register write of a value that fits keeps a state legal. -/
theorem State.Inv.setReg {s : State} {i v : Nat} (hs : s.Inv) (hv : v < 2 ^ s.params.wordBits) :
    (s.setReg i v).Inv := by
  obtain ⟨hlegal, hregs, hmem, hprog, hstatus⟩ := hs
  exact ⟨hlegal, State.reg_setReg_lt hregs hv, hmem, hprog, hstatus⟩

/-- A memory write in bounds of a word that fits keeps a state legal. -/
theorem State.Inv.setMem {s : State} {a v : Nat} (hs : s.Inv) (ha : a < s.params.memSize)
    (hv : v < 2 ^ s.params.wordBits) : (s.setMem a v).Inv := by
  obtain ⟨hlegal, hregs, hmem, hprog, hstatus⟩ := hs
  exact ⟨hlegal, hregs, hmem.setMem ha hv, hprog, hstatus⟩

/-- Construction with legal parameters gives a legal state (R290). -/
theorem State.Inv.construct {p : Params} (hp : p.Legal) : (State.construct p).Inv := by
  refine ⟨hp, fun j _ => ?_, ⟨Memory.wf_construct p, nofun⟩, ⟨nofun, ?_⟩, Nat.two_pow_pos _, fun _ => ⟨rfl, rfl⟩, nofun⟩
  · rw [State.reg_of_replicate _ (State.construct_regs p)]
    exact Nat.two_pow_pos _
  · cases hc : p.progCap <;> simp [exceeds, hc, State.plen]

/-- Settles O56: State.reset is a construction, with 32-bit words. -/
theorem invAtConstruction : Obligations.InvAtConstruction := by
  unfold Obligations.InvAtConstruction
  exact ⟨State.Inv.construct (by decide), fun p hp => State.Inv.construct hp⟩

/-- RESET keeps a state legal: it leaves a constructed core, but for the program store (R291). -/
theorem State.Inv.resetCore {s : State} (hs : s.Inv) : s.resetCore.Inv := by
  obtain ⟨hlegal, -, -, hprog, -⟩ := hs
  obtain ⟨-, hregs, hmem, -, hstatus⟩ := State.Inv.construct hlegal
  exact ⟨hlegal, hregs, hmem, hprog, hstatus⟩

/-! ### The step -/

/-- A completed instruction keeps a state legal. -/
theorem State.Inv.commit {s : State} {i : Instr} {w : Write} (hs : s.Inv) (h : executePhase i s = .ok w) :
    (s.commit w).Inv := by
  have hw : w.value < 2 ^ s.params.wordBits :=
    executePhase_value_lt hs.valuesBelow (fun _ _ _ => Nat.mod_lt _ (Nat.two_pow_pos _)) h
  cases w with
  | reg r v => exact hs.setReg hw
  | mem a v =>
    have ha : a < s.params.memSize := by
      obtain ⟨_, _, -, -, ⟨⟩⟩ | ⟨_, _, -, -, -, -, ⟨⟩⟩ | ⟨_, _, -, -, -, haddr, ⟨⟩⟩ | ⟨_, _, -, -, -, ⟨⟩⟩ :=
        executePhase_ok i s _ h
      exact haddr
    exact hs.setMem ha hw

/-- The fault of a well-formed instruction keeps a state legal: its address is a register's value or has 30 bits, so
`FAULT_INFO` holds it (R49; log 7). -/
theorem State.Inv.enterFault {s : State} {i : Instr} {e : OutOfBounds} (hs : s.Inv) (hi : i.wellFormed = true)
    (h : executePhase i s = .error e) : (s.enterFault e).Inv := by
  obtain ⟨hlegal, hregs, hmem, hprog, -⟩ := hs
  obtain ⟨a, rfl, hout, ha⟩ := executePhase_error i s e hi h
  have hwidth : a < 2 ^ max s.params.wordBits 30 := by
    obtain hfield | ⟨j, hj, rfl⟩ := ha
    · exact hfield.trans_le (Nat.pow_le_pow_right two_pos (le_max_right _ _))
    · exact (hregs j hj).trans_le (Nat.pow_le_pow_right two_pos (le_max_left _ _))
  exact ⟨hlegal, hregs, hmem, hprog, hwidth, nofun, fun _ => ⟨rfl, hout⟩⟩

/-- The state a step leaves is legal when the one before it is. -/
theorem State.Inv.stepState {s : State} (hs : s.Inv) : (stepState s).Inv := by
  obtain ⟨-, h, -⟩ | ⟨-, -, h, -⟩ | ⟨i, w, -, -, hw, h, -⟩ | ⟨i, e, -, hi, he, h, -⟩ := stepState_cases s
  · rwa [h]
  · rwa [h]
  · exact h ▸ hs.commit hw
  · exact h ▸ hs.enterFault (wellFormed_of_fetch hs.program_wellFormed hi) he

/-- Settles O57: a step changes nothing, commits a write that fits, or takes a memory fault. -/
theorem invKeptByStep : Obligations.InvKeptByStep := by
  unfold Obligations.InvKeptByStep
  intro s t hs hstep
  obtain rfl := stepState_of_step_eq_next hstep
  exact hs.stepState

/-! ### The commands -/

/-- A LOAD that succeeds keeps a state legal: the loader accepts well-formed instructions only, and no more of them than
the store holds (R41, R44). -/
theorem State.Inv.load {s : State} {bin : List Byte} {prog : List Instr} (hs : s.Inv)
    (h : load s.params.progCap bin = .ok prog) : State.Inv { s with program := prog } := by
  obtain ⟨hlegal, hregs, hmem, -, hstatus⟩ := hs
  exact ⟨hlegal, hregs, hmem, ⟨load_wellFormed h, load_not_exceeds h⟩, hstatus⟩

/-- Settles O58: each thing a command can do to the state keeps it legal. -/
theorem invKeptByCommand : Obligations.InvKeptByCommand := by
  unfold Obligations.InvKeptByCommand
  intro s c hs
  obtain h | ⟨-, h⟩ | ⟨-, h⟩ | ⟨k, -, h⟩ | ⟨bin, prog, -, hload, h⟩ | ⟨i, v, -, -, hv, h⟩ | ⟨a, v, -, ha, hv, h⟩ :=
    command_fst_cases c s <;> rw [h]
  · exact hs
  · exact hs.resetCore
  · exact hs.stepState
  · exact runSteps_invariant (p := State.Inv) (fun _ => State.Inv.stepState) k s hs
  · exact hs.load hload
  · exact hs.setReg hv
  · exact hs.setMem ha hv

end Machine

end Sys2Proof
end

section
/-!
PROOFS. The instructions once more (R177, R183, R200, R262): which of them fault, what each leaves unchanged, aliased
operands, and the laws of the shift.
-/

namespace Sys2Proof.Machine

/-- Settles O23: the shift is the quotient by a power of two. -/
theorem logicalShiftLaws : Obligations.LogicalShiftLaws := by
  unfold Obligations.LogicalShiftLaws
  refine fun v n => ⟨lsr_eq_div v n, rfl, lsr_le v n, fun k => ?_, fun w hv hn => lsr_eq_zero_of_le hv hn⟩
  rw [lsr, Nat.testBit_shiftRight, Nat.add_comm]

/-- Settles O24: the two instructions with an address in bounds, read and written through one register. -/
theorem aliasedOperands : Obligations.AliasedOperands := by
  unfold Obligations.AliasedOperands
  intro s r hr ha
  obtain ⟨t, hread, hval, -⟩ := ((readMemReadsOrFaults.2 r r hr hr).2 s).1 ha
  obtain ⟨u, hwrite, hword, -, hu⟩ := ((writeMemWritesOrFaults.2 r r hr hr).2 s).1 ha
  exact ⟨⟨t, hread, hval⟩, u, hwrite, hword, by rw [hu]; rfl⟩

/-! ### Faults -/

/-- An execute phase whose one check is left raises that check's error, exactly when the check fails. -/
theorem check_eq_error_iff {ε α : Type} {p : Prop} [Decidable p] {x e : ε} {w : α} :
    (if p then .error x else .ok w : Except ε α) = .error e ↔ p ∧ e = x := by
  split_ifs with hp
  · simp [hp, eq_comm]
  · simp [hp]

/-- Settles O26: with registers that exist, the memory check is the only one left, and LoadConst has none. -/
theorem faultsByInstruction : Obligations.FaultsByInstruction := by
  unfold Obligations.FaultsByInstruction
  refine fun s => ⟨fun reg k e hi => ?_, fun src dst e hi => ?_, fun src ad e hi => ?_, fun reg m e hi => ?_⟩
  · obtain ⟨hreg, -⟩ := (Instr.wellFormed_loadConst_iff reg k).mp hi
    rw [executePhase, loadConstPhase_eq, if_neg hreg.not_ge]
    nofun
  · obtain ⟨hsrc, hdst⟩ := (Instr.wellFormed_readMem_iff src dst).mp hi
    rw [executePhase_readMem_of_lt s hsrc hdst, check_eq_error_iff]
  · obtain ⟨hsrc, had⟩ := (Instr.wellFormed_writeMem_iff src ad).mp hi
    rw [executePhase_writeMem_of_lt s hsrc had, check_eq_error_iff]
  · obtain ⟨hreg, -⟩ := (Instr.wellFormed_shiftRight_iff reg m).mp hi
    rw [executePhase_shiftRight_of_lt s m hreg, check_eq_error_iff]

/-! ### Frames -/

/-- An instruction commits the write of its execute phase, or takes the fault it raises (R150). -/
theorem exec_eq_next_cases {i : Instr} {s t : State} (h : exec i s = .next t) :
    (∃ w, executePhase i s = .ok w ∧ t = s.commit w) ∨ ∃ e, executePhase i s = .error e ∧ t = s.enterFault e := by
  rw [exec_eq_retire, State.retire_eq_next] at h
  cases hphase : executePhase i s with
  | ok w =>
    rw [hphase] at h
    cases h
    exact .inl ⟨w, rfl, rfl⟩
  | error e =>
    rw [hphase] at h
    cases h
    exact .inr ⟨e, rfl, rfl⟩

/-- The write of LoadConst, ReadMem and ShiftRight is of their destination register. -/
theorem executePhase_ok_of_register_writer {i : Instr} {s : State} {d : Nat} {w : Write}
    (hi : (∃ k, i = .loadConst d k) ∨ (∃ src, i = .readMem src d) ∨ ∃ m, i = .shiftRight d m)
    (h : executePhase i s = .ok w) : ∃ v, w = .reg d v := by
  obtain ⟨_, _, rfl, -, rfl⟩ | ⟨_, _, rfl, -, -, -, rfl⟩ | ⟨_, _, rfl, -⟩ | ⟨_, _, rfl, -, -, rfl⟩ :=
    executePhase_ok i s w h
  case inr.inr.inl => simp at hi
  all_goals simpa [eq_comm] using hi

/-- The write of WriteMem is of the word at its effective address. -/
theorem executePhase_ok_of_writeMem {src ad : Nat} {s : State} {w : Write}
    (h : executePhase (.writeMem src ad) s = .ok w) : ∃ v, w = .mem (indirectAddress (s.reg ad)) v := by
  obtain ⟨_, _, ⟨⟩, -⟩ | ⟨_, _, ⟨⟩, -⟩ | ⟨_, _, ⟨⟩, -, -, -, rfl⟩ | ⟨_, _, ⟨⟩, -⟩ := executePhase_ok _ s w h
  exact ⟨_, rfl⟩

/-- Settles O28: the commit of a write to `d`, and the fault, which writes the status registers alone. -/
theorem frameOfRegisterWriters : Obligations.FrameOfRegisterWriters := by
  unfold Obligations.FrameOfRegisterWriters
  intro s t d i hi hexec
  obtain ⟨w, hw, rfl⟩ | ⟨e, -, rfl⟩ := exec_eq_next_cases hexec
  · obtain ⟨v, rfl⟩ := executePhase_ok_of_register_writer hi hw
    refine ⟨fun j hj => ?_, fun _ => rfl, rfl, rfl, .inl ⟨rfl, rfl, rfl, rfl⟩⟩
    rw [State.reg_commit_reg, if_neg fun h => hj h.1.symm]
  · exact ⟨fun _ _ => rfl, fun _ => rfl, rfl, rfl, .inr ⟨rfl, rfl, rfl⟩⟩

/-- Settles O29: the commit of a write to the effective address, and the fault, which writes the status registers
alone. -/
theorem frameOfWriteMem : Obligations.FrameOfWriteMem := by
  unfold Obligations.FrameOfWriteMem
  intro s t src ad hexec
  obtain ⟨w, hw, rfl⟩ | ⟨e, -, rfl⟩ := exec_eq_next_cases hexec
  · obtain ⟨v, rfl⟩ := executePhase_ok_of_writeMem hw
    refine ⟨fun _ => rfl, fun a ha => ?_, rfl, rfl, .inl ⟨rfl, rfl, rfl, rfl⟩⟩
    rw [State.commit_mem_mem, Memory.read_write, if_neg ha.symm]
  · exact ⟨fun _ => rfl, fun _ _ => rfl, rfl, rfl, .inr ⟨rfl, fun _ => rfl, rfl⟩⟩

end Sys2Proof.Machine
end

section
/-!
PROOFS. How far a RUN goes (R39, R156, R158, R159): its inversion, the instructions it executes against the program's
length, and two RUNs as one; and what the step that follows a LOAD executes (R150, R294).
-/

namespace Sys2Proof.Machine

/-! ### The step at `pc` -/

/-- A step of a core that is not faulted executes what it fetches (R150). -/
theorem step_eq_exec {s : State} {i : Instr} (hf : s.faulted = false) (hi : s.fetch = some i) : step s = exec i s := by
  simp [step, stepOutcome, hf, hi]

/-- Settles O30: the step is the execution of what is fetched, and STEP leaves the state that the step answers. -/
theorem stepRunsInstructionAtPc : Obligations.StepRunsInstructionAtPc := by
  unfold Obligations.StepRunsInstructionAtPc
  exact fun s => ⟨fun i hf hi => step_eq_exec hf hi, step_eq_next s⟩

/-- Settles O31: the placed instruction stands alone in the store, `pc` names it, and no fault is pending. -/
theorem fetchedWordIsRun : Obligations.FetchedWordIsRun := by
  unfold Obligations.FetchedWordIsRun
  intro s nbits w i hdec
  rw [State.withFetchWord, hdec]
  exact step_eq_exec rfl rfl

/-- Settles O55: the LOAD fills the unbounded store with the instructions, of which `pc` names the first. -/
theorem loadedProgramStartsAtFirst : Obligations.LoadedProgramStartsAtFirst := by
  unfold Obligations.LoadedProgramStartsAtFirst
  intro s i rest hprog hcap hf hpc
  have hload : load s.params.progCap ((i :: rest).flatMap encode) = .ok (i :: rest) :=
    load_flatMap_encode hprog (by rw [hcap]; rfl)
  refine ⟨{ s with program := i :: rest }, command_load_of_ok hload, rfl, step_eq_exec hf ?_⟩
  simp [State.fetch, hpc]

/-! ### The result of a step against the program's length -/

/-- A step that executes has fetched an instruction, so `pc` is within the program (R150). -/
theorem pc_lt_plen_of_executed {s : State} (h : stepResult s = .executed) : s.pc < s.plen := by
  obtain ⟨-, -, hr⟩ | ⟨-, -, -, hr⟩ | ⟨i, w, -, hi, -, -, -⟩ | ⟨i, e, -, -, -, -, hr⟩ := stepState_cases s
  case inr.inr.inl =>
    by_contra hpc
    simp [s.fetch_eq_none.mpr (not_lt.mp hpc)] at hi
  all_goals simp [hr] at h

/-- A step returns HALTED only at the end of the program or beyond (R151). -/
theorem plen_le_pc_of_halted {s : State} (h : stepResult s = .halted) : s.plen ≤ s.pc := by
  obtain ⟨-, -, hr⟩ | ⟨-, hi, -, -⟩ | ⟨i, w, -, -, -, -, hr⟩ | ⟨i, e, -, -, -, -, hr⟩ := stepState_cases s
  case inr.inl => exact s.fetch_eq_none.mp hi
  all_goals simp [hr] at h

@[simp] theorem stepState_plen (s : State) : (stepState s).plen = s.plen := congrArg List.length (stepState_program s)

/-- A step keeps `pc` within the program or at its end (R39). -/
theorem stepState_pc_le_plen {s : State} (h : s.pc ≤ s.plen) : (stepState s).pc ≤ (stepState s).plen := by
  rw [stepState_pc, stepState_plen]
  split_ifs with hr
  · exact pc_lt_plen_of_executed hr
  · exact h

/-- Settles O35: the step moves `pc` on only from within the program, and RUN repeats steps. -/
theorem pcStaysWithinProgram : Obligations.PcStaysWithinProgram := by
  unfold Obligations.PcStaysWithinProgram
  exact fun s hs => ⟨stepState_pc_le_plen hs, fun k =>
    runSteps_invariant (p := fun t => t.pc ≤ t.plen) (fun _ => stepState_pc_le_plen) k s hs⟩

/-! ### RUN -/

/-- What a RUN of at least one step does, by the result of its first step (R158): it goes on, or stops there. -/
theorem runSteps_succ_cases {k n : Nat} {s t : State} {why : StopReason} (h : runSteps (k + 1) s = (t, why, n)) :
    (stepResult s = .executed ∧ ∃ n', runSteps k (stepState s) = (t, why, n') ∧ n = n' + 1) ∨
    (stepResult s = .halted ∧ t = stepState s ∧ why = .halted ∧ n = 0) ∨
    ∃ c v, stepResult s = .fault c v ∧ t = stepState s ∧ why = .fault c v ∧ n = 0 := by
  cases hr : stepResult s with
  | executed =>
    rw [runSteps_succ_of_executed hr] at h
    cases h
    exact .inl ⟨rfl, _, rfl, rfl⟩
  | halted =>
    rw [runSteps_succ_of_halted hr] at h
    cases h
    exact .inr (.inl ⟨rfl, rfl, rfl, rfl⟩)
  | fault c v =>
    rw [runSteps_succ_of_fault hr] at h
    cases h
    exact .inr (.inr ⟨c, v, rfl, rfl, rfl, rfl⟩)

/-- Settles O38, by induction on the steps RUN may attempt: an executed step leaves one instruction less to the end of
the program. -/
theorem runTerminates : Obligations.RunTerminates := by
  unfold Obligations.RunTerminates
  intro s t m n why hrun
  induction m generalizing s n with
  | zero =>
    cases hrun
    exact ⟨Nat.zero_le _, fun h => absurd h (Nat.not_lt_zero _)⟩
  | succ k ih =>
    obtain ⟨hr, n', hrest, rfl⟩ | ⟨-, -, rfl, rfl⟩ | ⟨c, v, -, -, rfl, rfl⟩ := runSteps_succ_cases hrun
    · obtain ⟨hcount, hends⟩ := ih _ _ hrest
      have hpc := pc_lt_plen_of_executed hr
      rw [stepState_pc, if_pos hr, stepState_plen] at hcount hends
      exact ⟨by omega, fun hk => hends (by omega)⟩
    · exact ⟨Nat.zero_le _, nofun⟩
    · exact ⟨Nat.zero_le _, nofun⟩

/-- A RUN leaves `pc` as many instructions further as it executed (R153, R158). -/
theorem runSteps_pc {m n : Nat} {s t : State} {why : StopReason} (h : runSteps m s = (t, why, n)) :
    t.pc = s.pc + n := by
  induction m generalizing s n with
  | zero =>
    cases h
    rfl
  | succ k ih =>
    obtain ⟨hr, n', hrest, rfl⟩ | ⟨hr, rfl, -, rfl⟩ | ⟨c, v, hr, rfl, -, rfl⟩ := runSteps_succ_cases h
    · rw [ih hrest, stepState_pc, if_pos hr]
      omega
    · simp [stepState_pc, hr]
    · simp [stepState_pc, hr]

/-- A RUN without a fault executes the rest of the program, and stops at its end with HALTED, if it may attempt one step
more than that; else it executes as many as it may attempt, and stops with LIMIT (R156, R159). -/
theorem runSteps_outcome {m n : Nat} {s t : State} {why : StopReason} (h : runSteps m s = (t, why, n))
    (hwhy : ∀ c v, why ≠ .fault c v) :
    n = min (s.plen - s.pc) m ∧ (s.plen - s.pc < m → why = .halted) ∧ (m ≤ s.plen - s.pc → why = .limit) := by
  induction m generalizing s n with
  | zero =>
    cases h
    exact ⟨(Nat.min_zero _).symm, fun h => absurd h (Nat.not_lt_zero _), fun _ => rfl⟩
  | succ k ih =>
    obtain ⟨hr, n', hrest, rfl⟩ | ⟨hr, -, rfl, rfl⟩ | ⟨c, v, -, -, rfl, -⟩ := runSteps_succ_cases h
    · obtain ⟨hcount, hhalted, hlimit⟩ := ih hrest
      have hpc := pc_lt_plen_of_executed hr
      rw [stepState_pc, if_pos hr, stepState_plen] at hcount hhalted hlimit
      exact ⟨by omega, fun hk => hhalted (by omega), fun hk => hlimit (by omega)⟩
    · have hpc := plen_le_pc_of_halted hr
      exact ⟨by omega, fun _ => rfl, fun hk => by omega⟩
    · exact absurd rfl (hwhy c v)

/-- Settles O37: the outcome of a RUN without a fault, from `pc = 0`. -/
theorem runOutcome : Obligations.RunOutcome := by
  unfold Obligations.RunOutcome
  intro s t m n why hpc _ hrun hwhy
  have hend := runSteps_pc hrun
  obtain ⟨hcount, hhalted, hlimit⟩ := runSteps_outcome hrun hwhy
  rw [hpc, Nat.sub_zero] at hcount hhalted hlimit
  exact ⟨by rw [hend, hpc, Nat.zero_add, hcount], hcount, hhalted, hlimit⟩

/-- Settles O39, by induction on the steps of the first RUN: all of them executed, since it stopped at its limit. -/
theorem runContinues : Obligations.RunContinues := by
  unfold Obligations.RunContinues
  intro s t u a b n k why hfirst hsecond
  induction a generalizing s n with
  | zero =>
    cases hfirst
    rwa [Nat.zero_add, Nat.zero_add]
  | succ a ih =>
    obtain ⟨hr, n', hrest, rfl⟩ | ⟨-, -, hwhy, -⟩ | ⟨c, v, -, -, hwhy, -⟩ := runSteps_succ_cases hfirst
    · rw [Nat.add_right_comm a 1 b, runSteps_succ_of_executed hr, ih _ _ hrest, Nat.add_right_comm n' 1 k]
    · cases hwhy
    · cases hwhy

end Sys2Proof.Machine
end

section
/-!
PROOFS. A RUN does not depend on `WORD_BITS` (R12): the one use of the width in a step is LoadConst's zero extension,
and the constant of a well-formed LoadConst fits every legal width.
-/

namespace Sys2Proof.Machine

/-- The same state of a core with another word width. -/
def State.withWordBits (s : State) (w : Nat) : State := { s with params := { s.params with wordBits := w } }

/-- The execute phase of a well-formed instruction is the same for every legal width (R12). -/
theorem executePhase_withWordBits {i : Instr} {s : State} {w : Nat} (hs : 24 ≤ s.params.wordBits) (hw : 24 ≤ w)
    (hi : i.wellFormed = true) : executePhase i (s.withWordBits w) = executePhase i s := by
  cases i with
  | loadConst reg const =>
    obtain ⟨hreg, hconst⟩ := (Instr.wellFormed_loadConst_iff reg const).mp hi
    rw [executePhase_loadConst_of_lt hreg hconst hs, executePhase_loadConst_of_lt hreg hconst hw]
  | readMem | writeMem | shiftRight => rfl

/-- The step whose execute phase answers a write commits it, and returns EXECUTED (R150). -/
theorem step_of_ok {s : State} {i : Instr} {wr : Write} (hf : s.faulted = false) (hi : s.fetch = some i)
    (h : executePhase i s = .ok wr) : stepState s = s.commit wr ∧ stepResult s = .executed := by
  simpa [hf, hi, h] using stepState_cases s

/-- A step of a well-formed program answers the same and leaves the same state for every legal width (R12). -/
theorem step_withWordBits {s : State} {w : Nat} (hs : 24 ≤ s.params.wordBits) (hw : 24 ≤ w)
    (hp : ∀ i ∈ s.program, i.wellFormed = true) :
    stepResult (s.withWordBits w) = stepResult s ∧
      stepState (s.withWordBits w) = (stepState s).withWordBits w := by
  obtain ⟨hf, h, hr⟩ | ⟨hf, hi, h, hr⟩ | ⟨i, wr, hf, hi, hphase, h, hr⟩ | ⟨i, e, hf, hi, hphase, h, hr⟩ :=
    stepState_cases s
  · obtain ⟨h', hr'⟩ := step_of_faulted (s := s.withWordBits w) hf
    exact ⟨hr'.trans hr.symm, by rw [h', h]⟩
  · obtain ⟨h', hr'⟩ := step_of_halted (s := s.withWordBits w) hf (s.fetch_eq_none.mp hi)
    exact ⟨hr'.trans hr.symm, by rw [h', h]⟩
  · rw [← executePhase_withWordBits hs hw (wellFormed_of_fetch hp hi)] at hphase
    obtain ⟨h', hr'⟩ := step_of_ok (s := s.withWordBits w) hf hi hphase
    refine ⟨hr'.trans hr.symm, ?_⟩
    rw [h', h]
    cases wr <;> rfl
  · rw [← executePhase_withWordBits hs hw (wellFormed_of_fetch hp hi)] at hphase
    obtain ⟨h', hr'⟩ := step_of_error (s := s.withWordBits w) hf hi hphase
    exact ⟨hr'.trans hr.symm, by rw [h', h]; rfl⟩

/-- A RUN of a well-formed program does the same for every legal width (R12). -/
theorem runSteps_withWordBits {s : State} {w : Nat} (m : Nat) (hs : 24 ≤ s.params.wordBits) (hw : 24 ≤ w)
    (hp : ∀ i ∈ s.program, i.wellFormed = true) :
    runSteps m (s.withWordBits w) = ((runSteps m s).1.withWordBits w, (runSteps m s).2) := by
  induction m generalizing s with
  | zero => rfl
  | succ k ih =>
    obtain ⟨hresult, hstate⟩ := step_withWordBits hs hw hp
    have hrest := ih (s := stepState s) (by rwa [stepState_params]) (by rwa [stepState_program])
    cases hr : stepResult s with
    | executed =>
      rw [runSteps_succ_of_executed (hresult.trans hr), runSteps_succ_of_executed hr, hstate, hrest]
    | halted => rw [runSteps_succ_of_halted (hresult.trans hr), runSteps_succ_of_halted hr, hstate]
    | fault c v => rw [runSteps_succ_of_fault (hresult.trans hr), runSteps_succ_of_fault hr, hstate]

/-- Settles O60: the RUN of the other core is the same RUN, and nothing writes the parameters. -/
theorem runIndependentOfWordBits : Obligations.RunIndependentOfWordBits := by
  unfold Obligations.RunIndependentOfWordBits
  intro s s' w m hs hw hp hs'
  obtain rfl : s' = s.withWordBits w := hs'
  rw [runSteps_withWordBits m hs hw hp]
  refine ⟨rfl, ?_⟩
  rw [State.withWordBits, runSteps_params]
  rfl

end Sys2Proof.Machine
end

section
/-!
PROOFS. The STATUS register (R48), and the length of a memory read-out (R91).
-/

namespace Sys2Proof.Machine

/-- The fields of a word put together as STATUS is (R48). -/
theorem statusFields (halted faulted : Bool) (cause : BitVec 3) {word : BitVec 32}
    (h : word = 0#27 ++ BitVec.ofBool halted ++ cause ++ BitVec.ofBool faulted) :
    word.getLsbD 0 = faulted ∧ word.extractLsb' 1 3 = cause ∧ word.getLsbD 4 = halted ∧
      word.extractLsb' 5 27 = 0 := by
  subst h
  revert halted faulted cause
  decide

/-- Settles O43: the word is the reserved bits, HALTED, CAUSE and FAULTED, from the top. -/
theorem statusWordLayout : Obligations.StatusWordLayout := by
  unfold Obligations.StatusWordLayout
  intro s
  obtain ⟨hfaulted, hcause, hhalted, hreserved⟩ :=
    statusFields s.halted s.faulted s.cause.code (word := s.statusWord) rfl
  exact ⟨rfl, hfaulted, hcause, by rw [hhalted, s.halted_iff], hreserved⟩

/-- A read-out has one pair for each address from its start up to the end that is clamped to memory (R90). -/
theorem dumpRange_length (s : State) (first last : Nat) :
    (s.dumpRange first last).length = min (last + 1) s.params.memSize - first := by
  rw [State.dumpRange, List.length_map, List.length_range']

/-- Settles O52: the clamped length, in the integers. -/
theorem dumpCount : Obligations.DumpCount := by
  unfold Obligations.DumpCount
  intro s first last pairs h
  obtain rfl : s.dumpRange first last = pairs := Response.dumped.inj (congrArg Prod.snd h)
  rw [dumpRange_length]
  omega

end Sys2Proof.Machine
end
